-- ==== Sys2Proof/Word.lean ====
section
/-! DEFINITION. The widths of the block: bytes, the 32-bit words of SHA-1, the 64-bit ARG and RVAL, the 72-bit command word. -/

namespace Sys2Proof

/-- One cell of a buffer, an OP byte, an RSTAT byte (20_memory.md R50, R55). -/
abbrev Byte := BitVec 8

/-- A word of the SHA-1 engine, and the width of STEP and DIGITS (41_hmac_sha1.md R121; 10_state.md R22, R23). -/
abbrev Word32 := BitVec 32

/-- The width of ARG, RVAL, NOW and the TimeCounter (30_encoding.md R70, R71; 10_state.md R21). -/
abbrev Word64 := BitVec 64

/-- A command or response word of 72 bits (30_encoding.md R70, R71). -/
abbrev Word72 := BitVec 72

end Sys2Proof
end

