-- ==== Sys2Proof/Config.lean ====
section
/-! DEFINITION. What an implementation fixes: the open parameters of 00_scope.md R9 and R10, and the constants of R7 and R8.
The parameters are arguments of the model; the host's fixed signatures pass it nothing but the state, so a state carries
them (`State.params`) and no step changes them (notes/assumptions/3.md). -/

namespace Sys2Proof

/-- The open parameters "the model takes as arguments" (00_scope.md R9, R10). -/
structure Params where
  /-- TEXT_MAX, capacity of TEXT in bytes. -/
  textMax : Nat
  /-- KEY_MAX, capacity of KEY in bytes. -/
  keyMax : Nat
  /-- MSG_MAX, capacity of MSG in bytes. -/
  msgMax : Nat
  /-- EMPTY_KEY_REJECT (R10): when true, TOTP and TOTPT refuse an empty key. -/
  emptyKeyReject : Bool
  deriving DecidableEq, Repr

/-- The parameter values the spec's own programs use (95_test_vectors.md section 3).
DESIGN CHOICE, unsafe for a claim about `State.reset` alone: R9 leaves them open (notes/assumptions/3.md). -/
def Params.ofPrograms : Params :=
  { textMax := 64, keyMax := 40, msgMax := 64, emptyKeyReject := false }

/-- The default of `step_seconds`, the reset value of STEP (00_scope.md R7; 10_state.md R22). -/
abbrev Config.defaultStep : Word32 := 30

/-- The default of `digits`, the reset value of DIGITS (00_scope.md R7; 10_state.md R23). -/
abbrev Config.defaultDigits : Word32 := 6

/-- DIGITS_MIN (00_scope.md R8). -/
abbrev Config.digitsMin : Nat := 1

/-- DIGITS_MAX, and so the number of cells of CODE (00_scope.md R8; 92_eei_decisions.md D11). -/
abbrev Config.digitsMax : Nat := 10

/-- The length of a SHA-1 digest in bytes (00_scope.md R7). -/
abbrev Config.digestBytes : Nat := 20

/-- The SHA-1 and HMAC block size in bytes (00_scope.md R8). -/
abbrev Config.blockBytes : Nat := 64

end Sys2Proof
end

