-- ==== Sys2Proof/Syntax.lean ====
section
/-! DEFINITION. The 22 commands (30_encoding.md R72), one constructor per row of spec/opcode_table.json, in the table's order.
An operand has the width of the ARG bits its command uses (R73); a command that ignores ARG has none. -/

namespace Sys2Proof

/-- The command set of 30_encoding.md R72. -/
inductive Instr where
  /-- NOP, do nothing (43_host_commands.md R170). -/
  | nop
  /-- CLR, return the block to its reset state (R171). -/
  | clr
  /-- RDST, read STATUS (R172). -/
  | rdst
  /-- CLRT, empty TEXT (R173). -/
  | clrt
  /-- PUSHT, append the character code ARG[7:0] to TEXT (R174). -/
  | pusht (char : Byte)
  /-- CLRK, empty KEY (R175). -/
  | clrk
  /-- PUSHK, append the byte ARG[7:0] to KEY (R176). -/
  | pushk (byte : Byte)
  /-- CLRM, empty MSG (R177). -/
  | clrm
  /-- PUSHM, append the byte ARG[7:0] to MSG (R178). -/
  | pushm (byte : Byte)
  /-- SETNOW, NOW takes ARG[63:0] (R179). -/
  | setnow (now : Word64)
  /-- SETSTEP, STEP takes ARG[31:0] (R180). -/
  | setstep (secs : Word32)
  /-- SETDIG, DIGITS takes ARG[31:0] (R181). -/
  | setdig (digits : Word32)
  /-- RDKLEN, read KLEN (R182). -/
  | rdklen
  /-- RDK, read KEY[ARG] (R183). -/
  | rdk (index : Word64)
  /-- RDDLEN, read DLEN (R184). -/
  | rddlen
  /-- RDD, read DIGEST[ARG] (R185). -/
  | rdd (index : Word64)
  /-- RDCLEN, read CLEN (R186). -/
  | rdclen
  /-- RDC, read CODE[ARG] (R187). -/
  | rdc (index : Word64)
  /-- B32DEC, decode TEXT into KEY (40_base32.md R90). -/
  | b32dec
  /-- HMAC, HMAC-SHA1 of MSG under KEY into DIGEST (41_hmac_sha1.md R110). -/
  | hmac
  /-- TOTP, the code of KEY, NOW, STEP, DIGITS into CODE (42_totp.md R140). -/
  | totp
  /-- TOTPT, decode TEXT into KEY and then as TOTP (42_totp.md R141). -/
  | totpt
  deriving DecidableEq, Repr

/-- A compute command, as against a host command (00_scope.md R13). -/
def Instr.isCompute : Instr → Bool
  | .b32dec => true
  | .hmac => true
  | .totp => true
  | .totpt => true
  | .nop => false
  | .clr => false
  | .rdst => false
  | .clrt => false
  | .pusht _ => false
  | .clrk => false
  | .pushk _ => false
  | .clrm => false
  | .pushm _ => false
  | .setnow _ => false
  | .setstep _ => false
  | .setdig _ => false
  | .rdklen => false
  | .rdk _ => false
  | .rddlen => false
  | .rdd _ => false
  | .rdclen => false
  | .rdc _ => false

end Sys2Proof
end

