-- ==== Sys2Proof/WellFormed.lean ====
section
/-! DEFINITION. What the spec requires of the data a run starts from: the parameters meet 00_scope.md R9, an OP byte is one of the 22
(30_encoding.md R74), and a command fits its word. -/

namespace Sys2Proof

/-- The constraints the open parameters must meet, in R9's order. -/
def Params.wellFormed (p : Params) : Bool :=
  decide (32 ≤ p.textMax) && decide (20 ≤ p.keyMax) && decide (8 ≤ p.msgMax)
    && decide (5 * p.textMax / 8 ≤ p.keyMax)
    && decide (p.keyMax + 64 < 2 ^ 61) && decide (p.msgMax + 64 < 2 ^ 61)

/-- The OP values that select a command. The illegal ones are R74's: 0x03 to 0x0F, 0x19 to 0x1F, 0x26 to 0x2F, 0x34 to 0xFF. -/
def legalOp (op : Byte) : Bool :=
  !((0x03#8 ≤ op && op ≤ 0x0F#8) || (0x19#8 ≤ op && op ≤ 0x1F#8)
    || (0x26#8 ≤ op && op ≤ 0x2F#8) || 0x34#8 ≤ op)

/-- Every term of `Instr` is a command of the block: each operand's type is as wide as the ARG bits its command uses (R73), and "no
ARG value makes a legal OP illegal" (R75). So there is no check here that a term could fail (notes/assumptions/7.md). -/
def Instr.wellFormed (_ : Instr) : Bool := true

end Sys2Proof
end

