-- ==== Sys2Proof/Decode.lean ====
section
/-! DEFINITION. The decoder of command words, the encoder, and the opcode map (30_encoding.md R70, R72, R73, R74, R75). -/

namespace Sys2Proof

/-- OP, bits 71:64 of a command word (R70). -/
def opField (w : Word72) : Byte := w.extractLsb' 64 8

/-- ARG, bits 63:0 of a command word (R70). -/
def argField (w : Word72) : Word64 := w.extractLsb' 0 64

/-- A command word from its two fields (R70). -/
def commandWord (op : Byte) (arg : Word64) : Word72 := op ++ arg

/-- ARG[7:0] (R73). -/
def argByte (arg : Word64) : Byte := arg.extractLsb' 0 8

/-- ARG[31:0] (R73). -/
def argWord (arg : Word64) : Word32 := arg.extractLsb' 0 32

/-- The opcode map of R72 read from OP and ARG; `none` is "illegal" (R74). -/
def decodeFields (op : Byte) (arg : Word64) : Option Instr :=
  match op with
  | 0x00#8 => some .nop
  | 0x01#8 => some .clr
  | 0x02#8 => some .rdst
  | 0x10#8 => some .clrt
  | 0x11#8 => some (.pusht (argByte arg))
  | 0x12#8 => some .clrk
  | 0x13#8 => some (.pushk (argByte arg))
  | 0x14#8 => some .clrm
  | 0x15#8 => some (.pushm (argByte arg))
  | 0x16#8 => some (.setnow arg)
  | 0x17#8 => some (.setstep (argWord arg))
  | 0x18#8 => some (.setdig (argWord arg))
  | 0x20#8 => some .rdklen
  | 0x21#8 => some (.rdk arg)
  | 0x22#8 => some .rddlen
  | 0x23#8 => some (.rdd arg)
  | 0x24#8 => some .rdclen
  | 0x25#8 => some (.rdc arg)
  | 0x30#8 => some .b32dec
  | 0x31#8 => some .hmac
  | 0x32#8 => some .totp
  | 0x33#8 => some .totpt
  | _ => none

/-- The decoder, total on every 72-bit word (R75). -/
def decode (w : Word72) : Option Instr := decodeFields (opField w) (argField w)

/-- The OP column of R72. -/
def Instr.opcode : Instr → Byte
  | .nop => 0x00
  | .clr => 0x01
  | .rdst => 0x02
  | .clrt => 0x10
  | .pusht _ => 0x11
  | .clrk => 0x12
  | .pushk _ => 0x13
  | .clrm => 0x14
  | .pushm _ => 0x15
  | .setnow _ => 0x16
  | .setstep _ => 0x17
  | .setdig _ => 0x18
  | .rdklen => 0x20
  | .rdk _ => 0x21
  | .rddlen => 0x22
  | .rdd _ => 0x23
  | .rdclen => 0x24
  | .rdc _ => 0x25
  | .b32dec => 0x30
  | .hmac => 0x31
  | .totp => 0x32
  | .totpt => 0x33

/-- The ARG a command is written with: its operand, and 0 in every bit it ignores (R76: a missing `arg` assembles as ARG = 0). -/
def Instr.arg : Instr → Word64
  | .nop => 0
  | .clr => 0
  | .rdst => 0
  | .clrt => 0
  | .pusht c => c.setWidth 64
  | .clrk => 0
  | .pushk b => b.setWidth 64
  | .clrm => 0
  | .pushm b => b.setWidth 64
  | .setnow v => v
  | .setstep v => v.setWidth 64
  | .setdig v => v.setWidth 64
  | .rdklen => 0
  | .rdk i => i
  | .rddlen => 0
  | .rdd i => i
  | .rdclen => 0
  | .rdc i => i
  | .b32dec => 0
  | .hmac => 0
  | .totp => 0
  | .totpt => 0

/-- The "ARG bits used" column of R72, as a mask. -/
def Instr.argMask : Instr → Word64
  | .nop => 0
  | .clr => 0
  | .rdst => 0
  | .clrt => 0
  | .pusht _ => 0xFF
  | .clrk => 0
  | .pushk _ => 0xFF
  | .clrm => 0
  | .pushm _ => 0xFF
  | .setnow _ => 0xFFFFFFFFFFFFFFFF
  | .setstep _ => 0xFFFFFFFF
  | .setdig _ => 0xFFFFFFFF
  | .rdklen => 0
  | .rdk _ => 0xFFFFFFFFFFFFFFFF
  | .rddlen => 0
  | .rdd _ => 0xFFFFFFFFFFFFFFFF
  | .rdclen => 0
  | .rdc _ => 0xFFFFFFFFFFFFFFFF
  | .b32dec => 0
  | .hmac => 0
  | .totp => 0
  | .totpt => 0

/-- The word of a command (R70, R72, R76). -/
def encode (i : Instr) : Word72 := commandWord i.opcode i.arg

/-- The word whose low `nbits` bits are those of `w` and whose other bits are 0, bit 0 the least significant as
spec/opcode_table.json numbers the one word of a command (R70). -/
def tableWord (nbits w : Nat) : Word72 := BitVec.ofNat 72 (w % 2 ^ nbits)

/-- What the decoder reads from a table row's word. -/
def decodeTableWord (nbits w : Nat) : Option Instr := decode (tableWord nbits w)

end Sys2Proof
end

