-- ==== Sys2Proof/Machine/State.lean ====
section
/-! DEFINITION. The state of one 2FCORE instance (10_state.md), its reset value, and the reasons a step can stop. -/

namespace Sys2Proof.Machine

/-- The registers of the Base32 decoder (10_state.md R29). -/
structure DecoderRegs where
  acc : BitVec 13
  cnt : BitVec 4
  out : List Byte
  deriving DecidableEq, Repr

/-- The registers of the SHA-1 engine (10_state.md R30). `w` is W[0..79] and `blk` is BLK. -/
structure Sha1Regs where
  h0 : Word32
  h1 : Word32
  h2 : Word32
  h3 : Word32
  h4 : Word32
  a : Word32
  b : Word32
  c : Word32
  d : Word32
  e : Word32
  w : List Word32
  blk : List Byte
  len : Word64
  deriving DecidableEq, Repr

/-- The registers of the HMAC unit (10_state.md R31). -/
structure HmacRegs where
  k0 : List Byte
  idig : List Byte
  deriving DecidableEq, Repr

/-- The registers of the TOTP pipeline (10_state.md R32). -/
structure TotpRegs where
  ctr : Word64
  tmsg : List Byte
  tdig : List Byte
  off : BitVec 4
  bin : BitVec 31
  cval : BitVec 31
  deriving DecidableEq, Repr

/-- The hidden state: what the units hold while a compute command runs (10_state.md section 2). -/
structure Hidden where
  dec : DecoderRegs
  sha : Sha1Regs
  hmac : HmacRegs
  totp : TotpRegs
  deriving DecidableEq, Repr

/-- The sequencer's position between commands, always "idle" (10_state.md R28, R35). -/
inductive Sequencer where
  | idle
  deriving DecidableEq, Repr

/-- The response of one command (30_encoding.md R71). -/
structure Response where
  rstat : Byte
  rval : Word64
  deriving DecidableEq, Repr

/-- What reaches the block from outside (00_scope.md R5; 70_reset_and_hazards.md R230). -/
inductive PortEvent where
  /-- The host presents a command word. -/
  | command (w : Word72)
  /-- A reset arrives, while the command `running` is in flight if there is one. -/
  | reset (running : Option Word72)
  deriving DecidableEq, Repr

/-- One 2FCORE instance and its port. The length registers are computed from the buffers (10_state.md R26). -/
structure State where
  /-- NOW (10_state.md R21). -/
  now : Word64
  /-- STEP (R22). -/
  stepSecs : Word32
  /-- DIGITS (R23). -/
  digits : Word32
  /-- STATUS (R24). -/
  status : Byte
  /-- TEXT (R25). -/
  text : List Byte
  /-- KEY (R25). -/
  key : List Byte
  /-- MSG (R25). -/
  msg : List Byte
  /-- DIGEST (R25). -/
  digest : List Byte
  /-- CODE (R25). -/
  code : List Byte
  /-- The hidden registers (R29 to R32). -/
  hidden : Hidden
  /-- The sequencer (R28). -/
  sequencer : Sequencer
  /-- The parameters of 00_scope.md R9 and R10; no step changes them (notes/assumptions/3.md). -/
  params : Params
  /-- What the host has presented and the block has not taken, oldest first (notes/assumptions/1.md). -/
  inputs : List PortEvent
  /-- The responses produced so far, oldest first (notes/assumptions/2.md). -/
  responses : List Response
  deriving DecidableEq, Repr

/-- TLEN (10_state.md R25, R26). -/
def State.tlen (s : State) : Nat := s.text.length

/-- KLEN (10_state.md R25, R26). -/
def State.klen (s : State) : Nat := s.key.length

/-- MLEN (10_state.md R25, R26). -/
def State.mlen (s : State) : Nat := s.msg.length

/-- DLEN (10_state.md R25, R26). -/
def State.dlen (s : State) : Nat := s.digest.length

/-- CLEN (10_state.md R25, R26). -/
def State.clen (s : State) : Nat := s.code.length

/-- ACC, CNT, OUT at reset and between commands (10_state.md R33, R35). -/
def DecoderRegs.zero : DecoderRegs := { acc := 0, cnt := 0, out := [] }

/-- H0 to H4, A to E, W, BLK, LEN at reset and between commands (10_state.md R33, R35). -/
def Sha1Regs.zero : Sha1Regs :=
  { h0 := 0, h1 := 0, h2 := 0, h3 := 0, h4 := 0, a := 0, b := 0, c := 0, d := 0, e := 0,
    w := List.replicate 80 0, blk := List.replicate 64 0, len := 0 }

/-- K0, IDIG at reset and between commands (10_state.md R33, R35). -/
def HmacRegs.zero : HmacRegs := { k0 := List.replicate 64 0, idig := List.replicate 20 0 }

/-- CTR, TMSG, TDIG, OFF, BIN, CVAL at reset and between commands (10_state.md R33, R35). -/
def TotpRegs.zero : TotpRegs :=
  { ctr := 0, tmsg := List.replicate 8 0, tdig := List.replicate 20 0, off := 0, bin := 0, cval := 0 }

/-- The hidden state at reset and between commands (10_state.md R33, R35). -/
def Hidden.zero : Hidden :=
  { dec := .zero, sha := .zero, hmac := .zero, totp := .zero }

/-- The reset state of 10_state.md R35 under given parameters, with nothing presented and nothing answered. -/
def State.resetWith (p : Params) : State :=
  { now := 0
    stepSecs := Config.defaultStep
    digits := Config.defaultDigits
    status := 0x00
    text := []
    key := []
    msg := []
    digest := []
    code := []
    hidden := .zero
    sequencer := .idle
    params := p
    inputs := []
    responses := [] }

/-- The machine right after reset (10_state.md R35), under the parameters the spec's own programs use (notes/assumptions/3.md). -/
def State.reset : State := .resetWith .ofPrograms

/-- Why the machine stops. It never does: an error is an ordinary outcome and "every command terminates with a response"
(60_exceptions.md R208; 70_reset_and_hazards.md R238), so nothing raises a fault and the type is empty (notes/assumptions/8.md). -/
inductive Fault where
  deriving DecidableEq, Repr

/-- Why an instruction has no meaning. -/
inductive Refusal where
  /-- Raised by exec's arm of an instruction that is not modelled yet; safe. No arm raises it now. -/
  | notModelled (mnemonic : String)
  deriving DecidableEq, Repr

end Sys2Proof.Machine
end

