-- ==== Sys2Proof/Machine/Flags.lean ====
section
/-! DEFINITION. The block has no flags (10_state.md R34); the only status a command leaves is STATUS and its response status. This file
gives the errors of 60_exceptions.md R200 and their status bytes (10_state.md R24; 30_encoding.md R71). -/

namespace Sys2Proof.Machine

/-- The causes of a GenerationError (60_exceptions.md R200). -/
inductive GenCause where
  | decodeFailed
  | stepZero
  | digitsRange
  | invalidSecret
  /-- Defined and never produced by this hardware (41_hmac_sha1.md R125). -/
  | primitiveFailure
  deriving DecidableEq, Repr

/-- The operation errors (60_exceptions.md R200). -/
inductive OperationError where
  | invalidCharacter
  | generation (cause : GenCause)
  deriving DecidableEq, Repr

/-- The protocol errors (60_exceptions.md R200). -/
inductive ProtocolError where
  | illegalCommand
  | badIndex
  | overflow
  deriving DecidableEq, Repr

/-- ECAUSE of a GenerationError (10_state.md R24). -/
def causeCode : GenCause → BitVec 4
  | .decodeFailed => 1
  | .stepZero => 2
  | .digitsRange => 3
  | .invalidSecret => 4
  | .primitiveFailure => 5

/-- A status byte from its fields: ECAUSE in bits 7:4, ECODE in bits 3:0 (10_state.md R24; 30_encoding.md R71). -/
def statusByte (ecause ecode : BitVec 4) : Byte := ecause ++ ecode

/-- RSTAT and STATUS of a command that succeeds. -/
def okByte : Byte := statusByte 0 0

/-- RSTAT and STATUS of an operation error (60_exceptions.md R200). -/
def operationByte : OperationError → Byte
  | .invalidCharacter => statusByte 0 1
  | .generation cause => statusByte (causeCode cause) 2

/-- RSTAT of a protocol error (60_exceptions.md R200). -/
def protocolByte : ProtocolError → Byte
  | .illegalCommand => statusByte 0 3
  | .badIndex => statusByte 0 4
  | .overflow => statusByte 0 5

/-- ECODE of a status byte, bits 3:0 (10_state.md R24). -/
def ecodeOf (st : Byte) : BitVec 4 := st.extractLsb' 0 4

/-- ECAUSE of a status byte, bits 7:4 (10_state.md R24). -/
def ecauseOf (st : Byte) : BitVec 4 := st.extractLsb' 4 4

/-- The response word, RSTAT in bits 71:64 and RVAL in bits 63:0 (30_encoding.md R71). -/
def responseWord (r : Response) : Word72 := r.rstat ++ r.rval

end Sys2Proof.Machine
end

