-- ==== Sys2Proof/Machine/Operands.lean ====
section
/-! DEFINITION. The two addressing modes of the buffers (20_memory.md R52) and the one byte order of the block (R53). -/

namespace Sys2Proof.Machine

/-- The five buffers, each an index space of its own (20_memory.md R50). -/
inductive Buffer where
  | text
  | key
  | msg
  | digest
  | code
  deriving DecidableEq, Repr

/-- The contents of a buffer. -/
def readBuffer (s : State) : Buffer → List Byte
  | .text => s.text
  | .key => s.key
  | .msg => s.msg
  | .digest => s.digest
  | .code => s.code

/-- `BUF <- S`: the whole buffer, and its length with it, is replaced (00_scope.md R12). -/
def writeBuffer (s : State) (b : Buffer) (bytes : List Byte) : State :=
  match b with
  | .text => { s with text := bytes }
  | .key => { s with key := bytes }
  | .msg => { s with msg := bytes }
  | .digest => { s with digest := bytes }
  | .code => { s with code := bytes }

/-- The capacity of a buffer (10_state.md R25). -/
def capacity (p : Params) : Buffer → Nat
  | .text => p.textMax
  | .key => p.keyMax
  | .msg => p.msgMax
  | .digest => Config.digestBytes
  | .code => Config.digitsMax

/-- Append: the byte goes to the index that is the current length; `none` when the length equals the capacity (20_memory.md R52). -/
def appendByte (cap : Nat) (buf : List Byte) (v : Byte) : Option (List Byte) :=
  if buf.length = cap then none else some (buf ++ [v])

/-- Indexed read with the whole 64-bit ARG, no wrap-around; `none` when the index is not below the length (20_memory.md R52). -/
def indexedByte (buf : List Byte) (index : Word64) : Option Byte := buf[index.toNat]?

/-- A length as RVAL, zero-extended to 64 bits (20_memory.md R53). -/
def lengthValue (buf : List Byte) : Word64 := BitVec.ofNat 64 buf.length

/-- A byte as RVAL, zero-extended to 64 bits (20_memory.md R53, R55). -/
def byteValue (v : Byte) : Word64 := v.setWidth 64

/-- `be32(x)`: four bytes, most significant first (41_hmac_sha1.md R120; 20_memory.md R53). -/
def be32 (x : Word32) : List Byte :=
  [x.extractLsb' 24 8, x.extractLsb' 16 8, x.extractLsb' 8 8, x.extractLsb' 0 8]

/-- `be64(x)`: eight bytes, most significant first (41_hmac_sha1.md R113; 42_totp.md R144; 20_memory.md R53). -/
def be64 (x : Word64) : List Byte :=
  [x.extractLsb' 56 8, x.extractLsb' 48 8, x.extractLsb' 40 8, x.extractLsb' 32 8,
   x.extractLsb' 24 8, x.extractLsb' 16 8, x.extractLsb' 8 8, x.extractLsb' 0 8]

/-- Four bytes as one 32-bit word, the first the most significant (41_hmac_sha1.md R114; 42_totp.md R147; 20_memory.md R53). -/
def word32OfBytes (b0 b1 b2 b3 : Byte) : Word32 :=
  (b0.setWidth 32 <<< 24) ||| (b1.setWidth 32 <<< 16) ||| (b2.setWidth 32 <<< 8) ||| b3.setWidth 32

/-- The byte `S[i]` of a sequence whose length the caller knows to exceed `i`. -/
def byteAt (bytes : List Byte) (i : Nat) : Byte := bytes.getD i 0

end Sys2Proof.Machine
end

