-- ==== Sys2Proof/Machine/Ops.lean ====
section
/-! DEFINITION. The shared operations: answering a command, ending one with an error (60_exceptions.md), the buffer operations of the host
commands, reset, and taking what the host presents. -/

namespace Sys2Proof.Machine

/-- `respond(rstat, rval)`: the one response of the command (30_encoding.md R71). -/
def respond (s : State) (rstat : Byte) (rval : Word64) : State :=
  { s with responses := s.responses ++ [{ rstat := rstat, rval := rval }] }

/-- The response of a host command that succeeds. -/
def respondOk (s : State) (rval : Word64) : State := respond s okByte rval

/-- `refuse <Error>`: a protocol error changes nothing; the only effect is the response, with RVAL = 0 (60_exceptions.md R203). -/
def refuse (s : State) (e : ProtocolError) : State := respond s (protocolByte e) 0

/-- The end of a compute command: STATUS takes the byte returned as RSTAT, and RVAL is 0 (60_exceptions.md R202). -/
def conclude (s : State) (st : Byte) : State := respond { s with status := st } st 0

/-- The end of a compute command that succeeds. -/
def concludeOk (s : State) : State := conclude s okByte

/-- Entry for an operation error: `raise <Error>(cause)` (60_exceptions.md R204, R205). InvalidCharacter empties KEY; a GenerationError
empties CODE, and with cause DecodeFailed KEY too. There is nothing to return from (R208). -/
def raiseError (s : State) (e : OperationError) : State :=
  match e with
  | .invalidCharacter => conclude { s with key := [] } (operationByte e)
  | .generation .decodeFailed => conclude { s with key := [], code := [] } (operationByte e)
  | .generation _ => conclude { s with code := [] } (operationByte e)

/-- The body of CLRT, CLRK and CLRM (43_host_commands.md R173, R175, R177). -/
def emptyBuffer (s : State) (b : Buffer) : State := respondOk (writeBuffer s b []) 0

/-- The body of PUSHT, PUSHK and PUSHM (43_host_commands.md R174, R176, R178). -/
def pushByte (s : State) (b : Buffer) (v : Byte) : State :=
  match appendByte (capacity s.params b) (readBuffer s b) v with
  | none => refuse s .overflow
  | some bytes => respondOk (writeBuffer s b bytes) 0

/-- The body of RDKLEN, RDDLEN and RDCLEN (43_host_commands.md R182, R184, R186). -/
def readLength (s : State) (b : Buffer) : State := respondOk s (lengthValue (readBuffer s b))

/-- The body of RDK, RDD and RDC (43_host_commands.md R183, R185, R187). -/
def readIndexed (s : State) (b : Buffer) (index : Word64) : State :=
  match indexedByte (readBuffer s b) index with
  | none => refuse s .badIndex
  | some v => respondOk s (byteValue v)

/-- Every register and buffer takes its reset value (10_state.md R35); what the host has presented, what it has been answered and the
parameters are no registers and stay. -/
def resetBlock (s : State) : State :=
  { State.resetWith s.params with inputs := s.inputs, responses := s.responses }

/-- A reset from outside: the state becomes the reset state and a command in flight is abandoned without a response
(70_reset_and_hazards.md R230). -/
def takeReset (s : State) (_running : Option Word72) : State := resetBlock s

/-- A command with an illegal OP (30_encoding.md R74). -/
def illegalCommand (s : State) : State := refuse s .illegalCommand

/-- The oldest event the host has presented, and the state without it (70_reset_and_hazards.md R233). -/
def takeEvent (s : State) : Option (PortEvent × State) :=
  match s.inputs with
  | [] => none
  | ev :: rest => some (ev, { s with inputs := rest })

/-- The host presents a command word, to be taken next. -/
def presentNext (s : State) (w : Word72) : State := { s with inputs := .command w :: s.inputs }

end Sys2Proof.Machine
end

