-- ==== Sys2Proof/Machine/Control.lean ====
section
/-! DEFINITION. The control commands NOP, CLR, RDST (43_host_commands.md R170 to R172). -/

namespace Sys2Proof.Machine

/-- NOP (43_host_commands.md R170). -/
def execNop (s : State) : Host.Outcome State Fault Refusal := .next (respondOk s 0)

/-- CLR (43_host_commands.md R171). -/
def execClr (s : State) : Host.Outcome State Fault Refusal := .next (respondOk (resetBlock s) 0)

/-- RDST (43_host_commands.md R172). -/
def execRdst (s : State) : Host.Outcome State Fault Refusal := .next (respondOk s (byteValue s.status))

end Sys2Proof.Machine
end

