-- ==== Sys2Proof/Machine/Load.lean ====
section
/-! DEFINITION. The commands that load operands (43_host_commands.md R173 to R181). -/

namespace Sys2Proof.Machine

/-- CLRT (43_host_commands.md R173). -/
def execClrt (s : State) : Host.Outcome State Fault Refusal := .next (emptyBuffer s .text)

/-- PUSHT (43_host_commands.md R174). -/
def execPusht (char : Byte) (s : State) : Host.Outcome State Fault Refusal := .next (pushByte s .text char)

/-- CLRK (43_host_commands.md R175). -/
def execClrk (s : State) : Host.Outcome State Fault Refusal := .next (emptyBuffer s .key)

/-- PUSHK (43_host_commands.md R176). -/
def execPushk (byte : Byte) (s : State) : Host.Outcome State Fault Refusal := .next (pushByte s .key byte)

/-- CLRM (43_host_commands.md R177). -/
def execClrm (s : State) : Host.Outcome State Fault Refusal := .next (emptyBuffer s .msg)

/-- PUSHM (43_host_commands.md R178). -/
def execPushm (byte : Byte) (s : State) : Host.Outcome State Fault Refusal := .next (pushByte s .msg byte)

/-- SETNOW (43_host_commands.md R179). -/
def execSetnow (now : Word64) (s : State) : Host.Outcome State Fault Refusal :=
  .next (respondOk { s with now := now } 0)

/-- SETSTEP (43_host_commands.md R180). -/
def execSetstep (secs : Word32) (s : State) : Host.Outcome State Fault Refusal :=
  .next (respondOk { s with stepSecs := secs } 0)

/-- SETDIG (43_host_commands.md R181). -/
def execSetdig (digits : Word32) (s : State) : Host.Outcome State Fault Refusal :=
  .next (respondOk { s with digits := digits } 0)

end Sys2Proof.Machine
end

