-- ==== Sys2Proof/Machine/Read.lean ====
section
/-! DEFINITION. The commands that read results (43_host_commands.md R182 to R187). -/

namespace Sys2Proof.Machine

/-- RDKLEN (43_host_commands.md R182). -/
def execRdklen (s : State) : Host.Outcome State Fault Refusal := .next (readLength s .key)

/-- RDK (43_host_commands.md R183). -/
def execRdk (index : Word64) (s : State) : Host.Outcome State Fault Refusal := .next (readIndexed s .key index)

/-- RDDLEN (43_host_commands.md R184). -/
def execRddlen (s : State) : Host.Outcome State Fault Refusal := .next (readLength s .digest)

/-- RDD (43_host_commands.md R185). -/
def execRdd (index : Word64) (s : State) : Host.Outcome State Fault Refusal := .next (readIndexed s .digest index)

/-- RDCLEN (43_host_commands.md R186). -/
def execRdclen (s : State) : Host.Outcome State Fault Refusal := .next (readLength s .code)

/-- RDC (43_host_commands.md R187). -/
def execRdc (index : Word64) (s : State) : Host.Outcome State Fault Refusal := .next (readIndexed s .code index)

end Sys2Proof.Machine
end

