-- ==== Sys2Proof/Machine/Base32.lean ====
section
/-! DEFINITION. The Base32 decoder with its bit accumulator, and the command B32DEC (40_base32.md). -/

namespace Sys2Proof.Machine

/-- The padding character `=` (40_base32.md R93). -/
abbrev padChar : Byte := 0x3D

/-- Case folding, ASCII `a` to `z` only (R94). -/
def foldCase (c : Byte) : Byte := if 0x61#8 ≤ c ∧ c ≤ 0x7A#8 then c - 0x20#8 else c

/-- The 5-bit value of a folded character by its position in the alphabet `A–Z2–7`; `none` raises InvalidCharacter (R95). -/
def symbolValue (c : Byte) : Option (BitVec 5) :=
  if 0x41#8 ≤ c ∧ c ≤ 0x5A#8 then some ((c - 0x41#8).setWidth 5)
  else if 0x32#8 ≤ c ∧ c ≤ 0x37#8 then some ((c - 0x32#8 + 26#8).setWidth 5)
  else none

/-- Start of a decode (R91): ACC, CNT and OUT are emptied. -/
def decStart (d : DecoderRegs) : DecoderRegs := { d with acc := 0, cnt := 0, out := [] }

/-- Shift-in: the symbol enters at ACC bits 4:0 and the bits leaving bit 12 are dropped (R96). -/
def shiftIn (d : DecoderRegs) (v : BitVec 5) : DecoderRegs :=
  { d with acc := (d.acc <<< 5) ||| v.setWidth 13, cnt := d.cnt + 5 }

/-- Emit: once 8 bits or more are buffered the top 8 of them are a byte of OUT; ACC keeps them as stale bits (R97). -/
def emitByte (d : DecoderRegs) : DecoderRegs :=
  if 8#4 ≤ d.cnt then
    { d with out := d.out ++ [(d.acc >>> (d.cnt - 8#4).toNat).setWidth 8], cnt := d.cnt - 8#4 }
  else d

/-- The steps of one character in R92's order; `none` is InvalidCharacter. -/
def decodeChar (d : DecoderRegs) (c : Byte) : Option DecoderRegs :=
  if c = padChar then some d
  else
    match symbolValue (foldCase c) with
    | none => none
    | some v => some (emitByte (shiftIn d v))

/-- The characters one at a time, left to right; the first that is invalid ends the decode (R92, R95). -/
def decodeChars (d : DecoderRegs) : List Byte → Option DecoderRegs
  | [] => some d
  | c :: rest =>
    match decodeChar d c with
    | none => none
    | some d' => decodeChars d' rest

/-- The decoder as a unit: its registers when it ends (all 0, R98) and its result, `none` being `Err(InvalidCharacter)`. -/
def decoderUnit (d : DecoderRegs) (t : List Byte) : DecoderRegs × Option (List Byte) :=
  match decodeChars (decStart d) t with
  | none => (.zero, none)
  | some d' => (.zero, some d'.out)

/-- `B32Decode(T)`, for a byte sequence of any length (R98). -/
def b32Decode (t : List Byte) : Option (List Byte) := (decoderUnit .zero t).2

/-- The state after the decoder has run over TEXT, its result not yet written (R90, R141). -/
def runDecoder (s : State) : State × Option (List Byte) :=
  ({ s with hidden := { s.hidden with dec := (decoderUnit s.hidden.dec s.text).1 } },
    (decoderUnit s.hidden.dec s.text).2)

/-- How B32DEC ends, from the decoder's result (R90). -/
def finishB32dec (r : State × Option (List Byte)) : State :=
  match r.2 with
  | some bytes => concludeOk { r.1 with key := bytes }
  | none => raiseError r.1 .invalidCharacter

/-- B32DEC (40_base32.md R90). -/
def execB32dec (s : State) : Host.Outcome State Fault Refusal := .next (finishB32dec (runDecoder s))

end Sys2Proof.Machine
end

