-- ==== Sys2Proof/Machine/Sha1.lean ====
section
/-! DEFINITION. The SHA-1 engine (41_hmac_sha1.md R113 to R121). -/

namespace Sys2Proof.Machine

/-- `ROTL_n` on 32-bit words (R121). -/
def rotl (n : Nat) (x : Word32) : Word32 := (x <<< n) ||| (x >>> (32 - n))

/-- `z` of R113: the number of zero bytes between 0x80 and the bit length, for a message of `len` bytes. -/
def padZeros (len : Nat) : Nat := (119 - len % 64) % 64

/-- `Pad(M)` (R113). For `len(M) >= 2^61`, which no run forms, the length field wraps (notes/assumptions/9.md). -/
def pad (m : List Byte) : List Byte :=
  m ++ [0x80] ++ List.replicate (padZeros m.length) 0x00 ++ be64 (BitVec.ofNat 64 (8 * m.length))

/-- W[0] to W[15] of a block (R114). -/
def blockWords (blk : List Byte) : List Word32 :=
  (List.range 16).map fun t =>
    word32OfBytes (byteAt blk (4 * t)) (byteAt blk (4 * t + 1)) (byteAt blk (4 * t + 2)) (byteAt blk (4 * t + 3))

/-- `W[t]`, for a `t` already scheduled. -/
def wordAt (w : List Word32) (t : Nat) : Word32 := w.getD t 0

/-- W[t] from the words before it (R116). -/
def nextWord (w : List Word32) (t : Nat) : Word32 :=
  rotl 1 (wordAt w (t - 3) ^^^ wordAt w (t - 8) ^^^ wordAt w (t - 14) ^^^ wordAt w (t - 16))

/-- W[16] to W[79], in order, after W[0] to W[15] (R116). -/
def schedule (w : List Word32) : List Word32 :=
  (List.range' 16 64).foldl (fun w t => w ++ [nextWord w t]) w

/-- `f_t(b, c, d)` (R117). -/
def roundFn (t : Nat) (b c d : Word32) : Word32 :=
  if t < 20 then (b &&& c) ||| (~~~b &&& d)
  else if t < 40 then b ^^^ c ^^^ d
  else if t < 60 then (b &&& c) ||| (b &&& d) ||| (c &&& d)
  else b ^^^ c ^^^ d

/-- `K_t` (R117). -/
def roundConst (t : Nat) : Word32 :=
  if t < 20 then 0x5A827999
  else if t < 40 then 0x6ED9EBA1
  else if t < 60 then 0x8F1BBCDC
  else 0xCA62C1D6

/-- Round `t` (R118): the registers shift together. -/
def sha1Round (r : Sha1Regs) (t : Nat) : Sha1Regs :=
  { r with
    a := rotl 5 r.a + roundFn t r.b r.c r.d + r.e + roundConst t + wordAt r.w t
    b := r.a
    c := rotl 30 r.b
    d := r.c
    e := r.d }

/-- H0 to H4 take the initial value, at the start of every hash (R115). -/
def sha1Init (r : Sha1Regs) : Sha1Regs :=
  { r with h0 := 0x67452301, h1 := 0xEFCDAB89, h2 := 0x98BADCFE, h3 := 0x10325476, h4 := 0xC3D2E1F0 }

/-- A block enters BLK, W is filled from it, and A to E take H0 to H4 (R114, R116, R118). -/
def loadBlock (r : Sha1Regs) (blk : List Byte) : Sha1Regs :=
  { r with
    blk := blk, w := schedule (blockWords blk)
    a := r.h0, b := r.h1, c := r.h2, d := r.h3, e := r.h4 }

/-- The chaining update (R119). -/
def chain (r : Sha1Regs) : Sha1Regs :=
  { r with h0 := r.h0 + r.a, h1 := r.h1 + r.b, h2 := r.h2 + r.c, h3 := r.h3 + r.d, h4 := r.h4 + r.e }

/-- One block: load, 80 rounds, chaining update (R114 to R119). -/
def compress (r : Sha1Regs) (blk : List Byte) : Sha1Regs :=
  chain ((List.range 80).foldl sha1Round (loadBlock r blk))

/-- The blocks of a padded message, 64 bytes each, in order (R114, R120). -/
def compressBlocks : Nat → Sha1Regs → List Byte → Sha1Regs
  | 0, r, _ => r
  | n + 1, r, p =>
    compressBlocks n (compress r (p.take Config.blockBytes)) (p.drop Config.blockBytes)

/-- The digest in H0 to H4 (R120). -/
def chainBytes (r : Sha1Regs) : List Byte := be32 r.h0 ++ be32 r.h1 ++ be32 r.h2 ++ be32 r.h3 ++ be32 r.h4

/-- The engine's registers after the last block of a message (R120). -/
def sha1Run (r : Sha1Regs) (m : List Byte) : Sha1Regs :=
  compressBlocks ((pad m).length / Config.blockBytes)
    (sha1Init { r with len := BitVec.ofNat 64 m.length }) (pad m)

/-- The engine as a unit: its registers when it ends (all 0, R120) and the digest. -/
def sha1Unit (r : Sha1Regs) (m : List Byte) : Sha1Regs × List Byte := (.zero, chainBytes (sha1Run r m))

/-- `SHA1(M)` (R120). -/
def sha1 (m : List Byte) : List Byte := (sha1Unit .zero m).2

end Sys2Proof.Machine
end

