-- ==== Sys2Proof/Machine/Hmac.lean ====
section
/-! DEFINITION. The HMAC-SHA1 unit and the command HMAC (41_hmac_sha1.md R110 to R112, R122, R123, R125). -/

namespace Sys2Proof.Machine

/-- K0 with the engine's registers after it: a key longer than the block is hashed first, and K0 is filled with zeros to 64 bytes
(41_hmac_sha1.md R122). -/
def blockKey (h : Hidden) (key : List Byte) : Hidden :=
  if Config.blockBytes < key.length then
    { h with
      sha := (sha1Unit h.sha key).1
      hmac := { h.hmac with k0 := (sha1Unit h.sha key).2 ++ List.replicate 44 0x00 } }
  else
    { h with hmac := { h.hmac with k0 := key ++ List.replicate (Config.blockBytes - key.length) 0x00 } }

/-- `ipad` and `opad` of R122: K0 with every byte exclusive-or'ed with the pad byte. -/
def xorPad (k0 : List Byte) (p : Byte) : List Byte := k0.map (· ^^^ p)

/-- The inner hash, into IDIG (R122). -/
def innerHash (h : Hidden) (message : List Byte) : Hidden :=
  { h with
    sha := (sha1Unit h.sha (xorPad h.hmac.k0 0x36 ++ message)).1
    hmac := { h.hmac with idig := (sha1Unit h.sha (xorPad h.hmac.k0 0x36 ++ message)).2 } }

/-- The outer hash, and the HMAC registers set to zero after it (R122). -/
def outerHash (h : Hidden) : Hidden × List Byte :=
  ({ h with sha := (sha1Unit h.sha (xorPad h.hmac.k0 0x5C ++ h.hmac.idig)).1, hmac := .zero },
    (sha1Unit h.sha (xorPad h.hmac.k0 0x5C ++ h.hmac.idig)).2)

/-- The unit `hmacSha1(key, message)` on its registers (R111, R122). -/
def hmacUnit (h : Hidden) (key message : List Byte) : Hidden × List Byte :=
  outerHash (innerHash (blockKey h key) message)

/-- `HMAC_SHA1(K, M)` (R122). -/
def hmacSha1 (key message : List Byte) : List Byte := (hmacUnit .zero key message).2

/-- HMAC (41_hmac_sha1.md R110). -/
def execHmac (s : State) : Host.Outcome State Fault Refusal :=
  .next (concludeOk { s with
    hidden := (hmacUnit s.hidden s.key s.msg).1
    digest := (hmacUnit s.hidden s.key s.msg).2 })

end Sys2Proof.Machine
end

