-- ==== Sys2Proof/Machine/Totp.lean ====
section
/-! DEFINITION. The TOTP pipeline and the commands TOTP and TOTPT (42_totp.md). -/

namespace Sys2Proof.Machine

/-- The operand checks, the first that fails being reported (42_totp.md R142). -/
def checkOperands (emptyKeyReject : Bool) (key : List Byte) (stepSecs digits : Word32) : Option GenCause :=
  if stepSecs = 0 then some .stepZero
  else if digits.toNat < Config.digitsMin ∨ Config.digitsMax < digits.toNat then some .digitsRange
  else if emptyKeyReject = true ∧ key.length = 0 then some .invalidSecret
  else none

/-- Step 1, the counter: CTR (R143). -/
def counterStep (h : Hidden) (now : Word64) (stepSecs : Word32) : Hidden :=
  { h with totp := { h.totp with ctr := BitVec.ofNat 64 (now.toNat / stepSecs.toNat) } }

/-- Step 2, the message: TMSG (R144). -/
def messageStep (h : Hidden) : Hidden := { h with totp := { h.totp with tmsg := be64 h.totp.ctr } }

/-- Step 3, the digest: TDIG (R145). -/
def digestStep (h : Hidden) (key : List Byte) : Hidden :=
  { (hmacUnit h key h.totp.tmsg).1 with totp := { h.totp with tdig := (hmacUnit h key h.totp.tmsg).2 } }

/-- Step 4a, the offset: OFF (R146). -/
def offsetStep (h : Hidden) : Hidden :=
  { h with totp := { h.totp with off := (byteAt h.totp.tdig 19 &&& 0x0F).setWidth 4 } }

/-- The truncated integer of a digest at an offset: the first byte's top bit masked off, big-endian (R147). -/
def truncateAt (tdig : List Byte) (off : Nat) : BitVec 31 :=
  (word32OfBytes (byteAt tdig off &&& 0x7F) (byteAt tdig (off + 1)) (byteAt tdig (off + 2))
    (byteAt tdig (off + 3))).setWidth 31

/-- Step 4b, the truncated integer: BIN (R147). -/
def truncateStep (h : Hidden) : Hidden :=
  { h with totp := { h.totp with bin := truncateAt h.totp.tdig h.totp.off.toNat } }

/-- Step 5, the modulo: CVAL, with 10^DIGITS exact (R148). -/
def moduloStep (h : Hidden) (digits : Word32) : Hidden :=
  { h with totp := { h.totp with cval := BitVec.ofNat 31 (h.totp.bin.toNat % 10 ^ digits.toNat) } }

/-- Step 6, the string: `width` ASCII digits, the most significant at index 0, zeros on the left (R149). -/
def decimalString (value width : Nat) : List Byte :=
  (List.range width).map fun i => BitVec.ofNat 8 (0x30 + value / 10 ^ (width - 1 - i) % 10)

/-- Steps 1 to 5 on the pipeline's registers (R150). -/
def pipeline (h : Hidden) (key : List Byte) (now : Word64) (stepSecs digits : Word32) : Hidden :=
  moduloStep (truncateStep (offsetStep (digestStep (messageStep (counterStep h now stepSecs)) key))) digits

/-- The pipeline as a unit: the hidden registers when it ends and the Code or the cause of the error (R150). -/
def totpUnit (emptyKeyReject : Bool) (h : Hidden) (key : List Byte) (now : Word64) (stepSecs digits : Word32) :
    Hidden × Except GenCause (List Byte) :=
  match checkOperands emptyKeyReject key stepSecs digits with
  | some cause => (h, .error cause)
  | none =>
    ({ pipeline h key now stepSecs digits with totp := .zero },
      .ok (decimalString (pipeline h key now stepSecs digits).totp.cval.toNat digits.toNat))

/-- `GenTotp(K, now, step, digits)`, under a value of EMPTY_KEY_REJECT (R150). -/
def genTotp (emptyKeyReject : Bool) (key : List Byte) (now : Word64) (stepSecs digits : Word32) :
    Except GenCause (List Byte) :=
  (totpUnit emptyKeyReject .zero key now stepSecs digits).2

/-- How TOTP ends, from the pipeline's registers and result (R140). -/
def finishTotp (s : State) (r : Hidden × Except GenCause (List Byte)) : State :=
  match r.2 with
  | .ok chars => concludeOk { s with hidden := r.1, code := chars }
  | .error cause => raiseError { s with hidden := r.1 } (.generation cause)

/-- Generation from KEY, NOW, STEP, DIGITS (R140). -/
def generate (s : State) : State :=
  finishTotp s (totpUnit s.params.emptyKeyReject s.hidden s.key s.now s.stepSecs s.digits)

/-- TOTP (42_totp.md R140). -/
def execTotp (s : State) : Host.Outcome State Fault Refusal := .next (generate s)

/-- How TOTPT goes on, from the decoder's result (R141). -/
def finishTotpt (r : State × Option (List Byte)) : State :=
  match r.2 with
  | some bytes => generate { r.1 with key := bytes }
  | none => raiseError r.1 (.generation .decodeFailed)

/-- TOTPT (42_totp.md R141). -/
def execTotpt (s : State) : Host.Outcome State Fault Refusal := .next (finishTotpt (runDecoder s))

end Sys2Proof.Machine
end

