-- ==== Sys2Proof/Machine/Dispatch.lean ====
section
/-! DEFINITION. exec: one arm per command of spec/opcode_table.json, each a direct call of its meaning. -/

namespace Sys2Proof.Machine

/-- The meaning of a command. -/
def exec (i : Instr) (s : State) : Host.Outcome State Fault Refusal :=
  match i with
  | .nop => Sys2Proof.Machine.execNop s
  | .clr => Sys2Proof.Machine.execClr s
  | .rdst => Sys2Proof.Machine.execRdst s
  | .clrt => Sys2Proof.Machine.execClrt s
  | .pusht char => Sys2Proof.Machine.execPusht char s
  | .clrk => Sys2Proof.Machine.execClrk s
  | .pushk byte => Sys2Proof.Machine.execPushk byte s
  | .clrm => Sys2Proof.Machine.execClrm s
  | .pushm byte => Sys2Proof.Machine.execPushm byte s
  | .setnow now => Sys2Proof.Machine.execSetnow now s
  | .setstep secs => Sys2Proof.Machine.execSetstep secs s
  | .setdig digits => Sys2Proof.Machine.execSetdig digits s
  | .rdklen => Sys2Proof.Machine.execRdklen s
  | .rdk index => Sys2Proof.Machine.execRdk index s
  | .rddlen => Sys2Proof.Machine.execRddlen s
  | .rdd index => Sys2Proof.Machine.execRdd index s
  | .rdclen => Sys2Proof.Machine.execRdclen s
  | .rdc index => Sys2Proof.Machine.execRdc index s
  | .b32dec => Sys2Proof.Machine.execB32dec s
  | .hmac => Sys2Proof.Machine.execHmac s
  | .totp => Sys2Proof.Machine.execTotp s
  | .totpt => Sys2Proof.Machine.execTotpt s

end Sys2Proof.Machine
end

