-- ==== Sys2Proof/Machine/Step.lean ====
section
/-! DEFINITION. One step: the oldest thing the host has presented is taken, and a command word is decoded and run. -/

namespace Sys2Proof.Machine

/-- One step. With nothing presented the block is "idle with all state held" (60_exceptions.md R215; notes/assumptions/4.md). -/
def step (s : State) : Host.Outcome State Fault Refusal :=
  match takeEvent s with
  | none => .next s
  | some (.reset running, s') => .next (takeReset s' running)
  | some (.command w, s') =>
    match decode w with
    | some i => exec i s'
    | none => .next (illegalCommand s')

/-- `s` with the command word of a table row presented, to be taken by the very next step (notes/assumptions/1.md). -/
def State.withFetchWord (s : State) (nbits w : Nat) : State := presentNext s (tableWord nbits w)

end Sys2Proof.Machine
end

