-- ==== Sys2Proof/Machine/Assembler.lean ====
section
/-! DEFINITION. The notation for commands: assembler lines, 18-digit words and the pseudo-instructions (30_encoding.md R76, R77). It is the
host's side of the port; no step uses it. -/

namespace Sys2Proof.Machine

/-- The mnemonics of 30_encoding.md R72, in capitals (R76). -/
def mnemonicOp : List Char → Option Byte
  | ['N', 'O', 'P'] => some 0x00
  | ['C', 'L', 'R'] => some 0x01
  | ['R', 'D', 'S', 'T'] => some 0x02
  | ['C', 'L', 'R', 'T'] => some 0x10
  | ['P', 'U', 'S', 'H', 'T'] => some 0x11
  | ['C', 'L', 'R', 'K'] => some 0x12
  | ['P', 'U', 'S', 'H', 'K'] => some 0x13
  | ['C', 'L', 'R', 'M'] => some 0x14
  | ['P', 'U', 'S', 'H', 'M'] => some 0x15
  | ['S', 'E', 'T', 'N', 'O', 'W'] => some 0x16
  | ['S', 'E', 'T', 'S', 'T', 'E', 'P'] => some 0x17
  | ['S', 'E', 'T', 'D', 'I', 'G'] => some 0x18
  | ['R', 'D', 'K', 'L', 'E', 'N'] => some 0x20
  | ['R', 'D', 'K'] => some 0x21
  | ['R', 'D', 'D', 'L', 'E', 'N'] => some 0x22
  | ['R', 'D', 'D'] => some 0x23
  | ['R', 'D', 'C', 'L', 'E', 'N'] => some 0x24
  | ['R', 'D', 'C'] => some 0x25
  | ['B', '3', '2', 'D', 'E', 'C'] => some 0x30
  | ['H', 'M', 'A', 'C'] => some 0x31
  | ['T', 'O', 'T', 'P'] => some 0x32
  | ['T', 'O', 'T', 'P', 'T'] => some 0x33
  | _ => none

/-- A character that belongs to the word it stands in: neither the blank that separates words nor the `;` of a comment (R76). -/
def isWordChar (c : Char) : Bool := c != ' ' && c != ';'

/-- The value of a digit in a base of at most 16. -/
def digitValue (base : Nat) (c : Char) : Option Nat :=
  let v :=
    if 48 ≤ c.toNat ∧ c.toNat ≤ 57 then c.toNat - 48
    else if 65 ≤ c.toNat ∧ c.toNat ≤ 70 then c.toNat - 55
    else if 97 ≤ c.toNat ∧ c.toNat ≤ 102 then c.toNat - 87
    else base
  if v < base then some v else none

/-- The digits of a number, the most significant first, added to what stands before them. -/
def digitsValue (base : Nat) (acc : Nat) : List Char → Option Nat
  | [] => some acc
  | c :: rest =>
    match digitValue base c with
    | none => none
    | some v => digitsValue base (acc * base + v) rest

/-- A number: hexadecimal after `0x`, else decimal (R76). -/
def numberValue : List Char → Option Nat
  | '0' :: 'x' :: d :: rest => digitsValue 16 0 (d :: rest)
  | d :: rest => digitsValue 10 0 (d :: rest)
  | [] => none

/-- An `arg` and what stands after it: a character in single quotes (code 39), or a number (R76). -/
def argValue (cs : List Char) : Option (Nat × List Char) :=
  match cs with
  | q :: c :: q' :: rest =>
    if q.toNat = 39 ∧ q'.toNat = 39 ∧ c.toNat < 128 then some (c.toNat, rest)
    else (numberValue (cs.takeWhile isWordChar)).map (·, cs.dropWhile isWordChar)
  | _ => (numberValue (cs.takeWhile isWordChar)).map (·, cs.dropWhile isWordChar)

/-- The blanks at the front dropped. -/
def dropBlanks (cs : List Char) : List Char := cs.dropWhile (· == ' ')

/-- Nothing but blanks and a comment is left (R76). -/
def endsLine (cs : List Char) : Bool :=
  match dropBlanks cs with
  | [] => true
  | c :: _ => c == ';'

/-- ARG from what follows the mnemonic; a missing `arg` assembles as 0 (R76). -/
def lineArg (cs : List Char) : Option Word64 :=
  if endsLine cs then some 0
  else
    match argValue (dropBlanks cs) with
    | none => none
    | some (n, rest) => if n < 2 ^ 64 ∧ endsLine rest then some (BitVec.ofNat 64 n) else none

/-- The command word of one line, `MNEMONIC` or `MNEMONIC arg` (R76); `none` when the line is not of that form (notes/assumptions/11.md). -/
def assembleLine (line : List Char) : Option Word72 :=
  match mnemonicOp ((dropBlanks line).takeWhile isWordChar), lineArg ((dropBlanks line).dropWhile isWordChar) with
  | some op, some arg => some (commandWord op arg)
  | _, _ => none

/-- A hexadecimal digit, a letter in capitals. -/
def hexDigit (n : Nat) : Char := if n < 10 then Char.ofNat (48 + n) else Char.ofNat (55 + n)

/-- A command word as 18 hexadecimal digits, the two of OP first (R76). -/
def hexWord (w : Word72) : List Char :=
  (List.range 18).map fun i => hexDigit (w.toNat / 16 ^ (17 - i) % 16)

/-- `LOADT` (R77). -/
def loadT (chars : List Byte) : List Instr := .clrt :: chars.map .pusht

/-- `LOADK` (R77). -/
def loadK (bytes : List Byte) : List Instr := .clrk :: bytes.map .pushk

/-- `LOADM` (R77). -/
def loadM (bytes : List Byte) : List Instr := .clrm :: bytes.map .pushm

/-- `READK`, `n` being the value RDKLEN returns (R77). -/
def readK (n : Nat) : List Instr := .rdklen :: (List.range n).map fun i => .rdk (BitVec.ofNat 64 i)

/-- `READD`, `n` being the value RDDLEN returns (R77). -/
def readD (n : Nat) : List Instr := .rddlen :: (List.range n).map fun i => .rdd (BitVec.ofNat 64 i)

/-- `READC`, `n` being the value RDCLEN returns (R77). -/
def readC (n : Nat) : List Instr := .rdclen :: (List.range n).map fun i => .rdc (BitVec.ofNat 64 i)

end Sys2Proof.Machine
end

