-- ==== Sys2Proof/Safety.lean ====
section
/-! DEFINITION. What counts as a legal state and a safe run, and the words the statements are written in. -/

namespace Sys2Proof

open Sys2Proof.Machine

/-- The values STATUS can hold (10_state.md R24; 60_exceptions.md R200). -/
def legalStatus : List Byte := [0x00, 0x01, 0x12, 0x22, 0x32, 0x42]

/-- The RSTAT bytes the block can produce (30_encoding.md R71). -/
def legalRstat : List Byte := [0x00, 0x01, 0x12, 0x22, 0x32, 0x42, 0x03, 0x04, 0x05]

/-- An ASCII digit, 0x30 to 0x39 (42_totp.md R149). -/
def isDigit (c : Byte) : Prop := 0x30 ≤ c.toNat ∧ c.toNat ≤ 0x39

/-- The states the spec allows between commands: the parameters meet 00_scope.md R9, every buffer has a legal length and CODE holds digits
(10_state.md R25), STATUS a value it can hold (R24), and the hidden state is zero (R33). -/
structure LegalState (s : State) : Prop where
  params : s.params.wellFormed = true
  text : s.tlen ≤ s.params.textMax
  key : s.klen ≤ s.params.keyMax
  msg : s.mlen ≤ s.params.msgMax
  digest : s.dlen = 0 ∨ s.dlen = 20
  code : s.clen ≤ 10
  codeDigits : ∀ c ∈ s.code, isDigit c
  status : s.status ∈ legalStatus
  hidden : s.hidden = .zero

/-- A run of `n` steps is safe when it ends in a legal state, with neither a fault nor a refusal on the way. -/
def SafeRun (n : Nat) (s : State) : Prop := ∃ t, Sys2Proof.core.run n s = .next t ∧ LegalState t

/-- `s` with one response more, and nothing else changed (30_encoding.md R71). -/
def answer (s : State) (rstat : Byte) (rval : Word64) : State :=
  { s with responses := s.responses ++ [⟨rstat, rval⟩] }

/-- `s` with the words of a list of commands presented, and nothing else (30_encoding.md R70). -/
def presenting (s : State) (cmds : List Instr) : State := { s with inputs := cmds.map fun i => .command (encode i) }

/-- Every piece of state of 10_state.md R35 has its reset value; the values are R35's own, written out. -/
structure AtReset (s : State) : Prop where
  now : s.now = 0
  stepSecs : s.stepSecs = 30
  digits : s.digits = 6
  status : s.status = 0x00
  text : s.text = [] ∧ s.tlen = 0
  key : s.key = [] ∧ s.klen = 0
  msg : s.msg = [] ∧ s.mlen = 0
  digest : s.digest = [] ∧ s.dlen = 0
  code : s.code = [] ∧ s.clen = 0
  dec : s.hidden.dec = ⟨0, 0, []⟩
  sha : s.hidden.sha = ⟨0, 0, 0, 0, 0, 0, 0, 0, 0, 0, List.replicate 80 0, List.replicate 64 0, 0⟩
  hmac : s.hidden.hmac = ⟨List.replicate 64 0, List.replicate 20 0⟩
  totp : s.hidden.totp = ⟨0, List.replicate 8 0, List.replicate 20 0, 0, 0, 0⟩
  sequencer : s.sequencer = .idle

/-- The commands that return a value in RVAL (30_encoding.md R72, last but one column). -/
def returnsValue : Instr → Bool
  | .rdst => true
  | .rdklen => true
  | .rdk _ => true
  | .rddlen => true
  | .rdd _ => true
  | .rdclen => true
  | .rdc _ => true
  | .nop => false
  | .clr => false
  | .clrt => false
  | .pusht _ => false
  | .clrk => false
  | .pushk _ => false
  | .clrm => false
  | .pushm _ => false
  | .setnow _ => false
  | .setstep _ => false
  | .setdig _ => false
  | .b32dec => false
  | .hmac => false
  | .totp => false
  | .totpt => false

/-- The columns of 10_state.md R27. -/
inductive Column where
  | text
  | key
  | msg
  | digest
  | code
  | now
  | step
  | digits
  | status
  deriving DecidableEq, Repr

/-- Two states hold the same in a column. -/
def agreeOn (c : Column) (s t : State) : Prop :=
  match c with
  | .text => s.text = t.text
  | .key => s.key = t.key
  | .msg => s.msg = t.msg
  | .digest => s.digest = t.digest
  | .code => s.code = t.code
  | .now => s.now = t.now
  | .step => s.stepSecs = t.stepSecs
  | .digits => s.digits = t.digits
  | .status => s.status = t.status

/-- The columns marked `W` for a command in 10_state.md R27. -/
def mayWrite : Instr → List Column
  | .nop => []
  | .clr => [.text, .key, .msg, .digest, .code, .now, .step, .digits, .status]
  | .rdst => []
  | .clrt => [.text]
  | .pusht _ => [.text]
  | .clrk => [.key]
  | .pushk _ => [.key]
  | .clrm => [.msg]
  | .pushm _ => [.msg]
  | .setnow _ => [.now]
  | .setstep _ => [.step]
  | .setdig _ => [.digits]
  | .rdklen => []
  | .rdk _ => []
  | .rddlen => []
  | .rdd _ => []
  | .rdclen => []
  | .rdc _ => []
  | .b32dec => [.key, .status]
  | .hmac => [.digest, .status]
  | .totp => [.code, .status]
  | .totpt => [.key, .code, .status]

/-- What a command's effect and response depend on: the columns marked `R` or `ret` for it in 10_state.md R27, but for four commands.
PUSHT, PUSHK, PUSHM depend on the buffer they append to, which R27 marks `W` alone: its length decides the index and the refusal, and its
bytes are kept (20_memory.md R52). TOTPT does not depend on the KEY it finds, which R27 marks `W, R`: it reads KEY after writing it, so
what it does depends on TEXT (42_totp.md R152). -/
def mayRead : Instr → List Column
  | .nop => []
  | .clr => []
  | .rdst => [.status]
  | .clrt => []
  | .pusht _ => [.text]
  | .clrk => []
  | .pushk _ => [.key]
  | .clrm => []
  | .pushm _ => [.msg]
  | .setnow _ => []
  | .setstep _ => []
  | .setdig _ => []
  | .rdklen => [.key]
  | .rdk _ => [.key]
  | .rddlen => [.digest]
  | .rdd _ => [.digest]
  | .rdclen => [.code]
  | .rdc _ => [.code]
  | .b32dec => [.text]
  | .hmac => [.key, .msg]
  | .totp => [.key, .now, .step, .digits]
  | .totpt => [.text, .now, .step, .digits]

/-- The Base32 alphabet `A–Z2–7` in order (00_scope.md R7). -/
def alphabet : List Byte :=
  [0x41, 0x42, 0x43, 0x44, 0x45, 0x46, 0x47, 0x48, 0x49, 0x4A, 0x4B, 0x4C, 0x4D, 0x4E, 0x4F, 0x50,
   0x51, 0x52, 0x53, 0x54, 0x55, 0x56, 0x57, 0x58, 0x59, 0x5A, 0x32, 0x33, 0x34, 0x35, 0x36, 0x37]

/-- `upper` of 40_base32.md R102: each code 0x61 to 0x7A is replaced by the code 0x20 lower. -/
def upper (c : Byte) : Byte :=
  if 0x61 ≤ c.toNat ∧ c.toNat ≤ 0x7A then BitVec.ofNat 8 (c.toNat - 0x20) else c

/-- A character that is neither padding nor a symbol (40_base32.md R95). -/
def invalidChar (c : Byte) : Prop := c ≠ 0x3D ∧ upper c ∉ alphabet

/-- The symbols of a text: its characters other than `=` (40_base32.md R103). -/
def symbols (t : List Byte) : List Byte := t.filter fun c => c ≠ 0x3D

/-- The symbols' 5-bit values, by position in the alphabet, read as one number, the first symbol the most significant (20_memory.md R53). -/
def symbolNumber (t : List Byte) : Nat :=
  (symbols t).foldl (fun n c => 32 * n + alphabet.idxOf (upper c)) 0

/-- A byte sequence read as one number, the first byte the most significant (20_memory.md R53). -/
def bigEndian (bytes : List Byte) : Nat := bytes.foldl (fun n b => 256 * n + b.toNat) 0

/-- The five words of a SHA-1 chaining value (41_hmac_sha1.md R115). -/
structure HashValue where
  h0 : Word32
  h1 : Word32
  h2 : Word32
  h3 : Word32
  h4 : Word32
  deriving DecidableEq, Repr

/-- The chaining value in the engine's registers H0 to H4 (10_state.md R30). -/
def hashValue (r : Sha1Regs) : HashValue := ⟨r.h0, r.h1, r.h2, r.h3, r.h4⟩

/-- A chaining value as one number, H0 the most significant word (20_memory.md R53). -/
def HashValue.number (h : HashValue) : Nat :=
  h.h0.toNat * 2 ^ 128 + h.h1.toNat * 2 ^ 96 + h.h2.toNat * 2 ^ 64 + h.h3.toNat * 2 ^ 32 + h.h4.toNat

/-- `w` is the message schedule of a block: the words W[0] to W[79] (41_hmac_sha1.md R114, R116). -/
structure IsSchedule (blk : List Byte) (w : Nat → Word32) : Prop where
  ofBlock : ∀ t < 16, (w t).toNat = bigEndian ((blk.drop (4 * t)).take 4)
  recurrence : ∀ t, 16 ≤ t → t < 80 → w t = (w (t - 3) ^^^ w (t - 8) ^^^ w (t - 14) ^^^ w (t - 16)).rotateLeft 1

/-- `a` to `e` are the values of A to E before round 0, 1, ... and after round 79, under the schedule `w`: the 80 rounds, with the round
functions and constants of each (41_hmac_sha1.md R117, R118). -/
structure AreRounds (w a b c d e : Nat → Word32) : Prop where
  shift : ∀ t < 80, b (t + 1) = a t ∧ c (t + 1) = (b t).rotateLeft 30 ∧ d (t + 1) = c t ∧ e (t + 1) = d t
  rounds0 : ∀ t < 20,
    a (t + 1) = (a t).rotateLeft 5 + ((b t &&& c t) ||| (~~~b t &&& d t)) + e t + 0x5A827999 + w t
  rounds20 : ∀ t, 20 ≤ t → t < 40 →
    a (t + 1) = (a t).rotateLeft 5 + (b t ^^^ c t ^^^ d t) + e t + 0x6ED9EBA1 + w t
  rounds40 : ∀ t, 40 ≤ t → t < 60 →
    a (t + 1) = (a t).rotateLeft 5 + ((b t &&& c t) ||| (b t &&& d t) ||| (c t &&& d t)) + e t + 0x8F1BBCDC + w t
  rounds60 : ∀ t, 60 ≤ t → t < 80 →
    a (t + 1) = (a t).rotateLeft 5 + (b t ^^^ c t ^^^ d t) + e t + 0xCA62C1D6 + w t

/-- A block takes the chaining value `h` to `h'`: A to E start from `h`, and after the 80 rounds they are added to it
(41_hmac_sha1.md R118, R119). -/
def BlockTakes (blk : List Byte) (h h' : HashValue) : Prop :=
  ∃ w a b c d e : Nat → Word32, IsSchedule blk w ∧ AreRounds w a b c d e ∧
    h = ⟨a 0, b 0, c 0, d 0, e 0⟩ ∧
    h' = ⟨h.h0 + a 80, h.h1 + b 80, h.h2 + c 80, h.h3 + d 80, h.h4 + e 80⟩

/-- A string of ASCII digits read as a decimal number. -/
def decimalValue (chars : List Byte) : Nat := chars.foldl (fun n c => 10 * n + (c.toNat - 0x30)) 0

/-- The dynamic truncation of a digest, on numbers: the four bytes at the offset its last byte gives, the first without its top bit
(42_totp.md R146, R147). -/
def truncated (digest : List Byte) : Nat :=
  let at' := fun i => (digest.getD i 0).toNat
  let off := at' 19 % 16
  at' off % 128 * 2 ^ 24 + at' (off + 1) * 2 ^ 16 + at' (off + 2) * 2 ^ 8 + at' (off + 3)

/-- The operands of generation are accepted by every check of 42_totp.md R142. -/
def validOperands (reject : Bool) (key : List Byte) (stepSecs digits : Word32) : Prop :=
  stepSecs ≠ 0 ∧ 1 ≤ digits.toNat ∧ digits.toNat ≤ 10 ∧ ¬(reject = true ∧ key = [])

end Sys2Proof
end

