-- ==== Sys2Proof/Certificates/Slice0/Obligations.lean ====
section
/-! DEFINITION. The statements for the provers, from the numbered rules of spec/. -/

open Sys2Proof Sys2Proof.Machine

/-! ### Command words -/

/-- Words written out from 30_encoding.md R72, R73, R76 decode to the commands they stand for. -/
def Obligations.SampleWordsDecodeToTheirCommands : Prop :=
  decode 0x00FFFFFFFFFFFFFFFF#72 = some .nop ∧
  decode 0x010000000000000000#72 = some .clr ∧
  decode 0x110000000000000141#72 = some (.pusht 0x41) ∧
  decode 0x16000000000000003B#72 = some (.setnow 59) ∧
  decode 0x170000000100000000#72 = some (.setstep 0) ∧
  decode 0x21FFFFFFFFFFFFFFFF#72 = some (.rdk 0xFFFFFFFFFFFFFFFF) ∧
  decode 0x300000000000000000#72 = some .b32dec ∧
  decode 0x310000000000000000#72 = some .hmac ∧
  decode 0x320000000000000000#72 = some .totp ∧
  decode 0x330000000000000000#72 = some .totpt ∧
  decode 0x340000000000000000#72 = none

/-- Decoding an encoded command gives it back, with every operand at every value (R70, R72, R73). -/
def Obligations.DecodeOfEncodeIsTheCommand : Prop :=
  ∀ i : Instr, i.wellFormed = true → decode (encode i) = some i

/-- R75. A decoder is total: any word gives one of the commands with its ARG (encoding it gives back OP and the ARG bits it uses), or
"illegal"; two OP values never select the same command; no ARG value makes a legal OP illegal. -/
def Obligations.DecoderIsTotalAndUnambiguous : Prop :=
  (∀ w, decode w = none ∨
    ∃ i, decode w = some i ∧ encode i = commandWord (opField w) (argField w &&& i.argMask)) ∧
  (∀ w w' i i', decode w = some i → decode w' = some i' → opField w ≠ opField w' → i.opcode ≠ i'.opcode) ∧
  (∀ op a a', (decode (commandWord op a)).isSome = (decode (commandWord op a')).isSome)

/-- R74. The illegal OP values are exactly 0x03 to 0x0F, 0x19 to 0x1F, 0x26 to 0x2F and 0x34 to 0xFF, 234 of them; such a command is
answered (0x03, 0) and changes no state. -/
def Obligations.UnlistedOpcodesAreRefusedAsIllegal : Prop :=
  (∀ w, decode w = none ↔
    (0x03 ≤ (opField w).toNat ∧ (opField w).toNat ≤ 0x0F) ∨ (0x19 ≤ (opField w).toNat ∧ (opField w).toNat ≤ 0x1F) ∨
    (0x26 ≤ (opField w).toNat ∧ (opField w).toNat ≤ 0x2F) ∨ 0x34 ≤ (opField w).toNat) ∧
  ((List.range 256).filter fun n => (decode (commandWord (BitVec.ofNat 8 n) 0)).isNone).length = 234 ∧
  (∀ s w rest, s.inputs = .command w :: rest → decode w = none →
    step s = .next (answer { s with inputs := rest } 0x03 0))

/-- R71. Every command produces exactly one response; its RSTAT is one of nine bytes, each of which some command produces, and RVAL is 0
for a command that returns no value and for one that ends with an error; the response word is RSTAT in 71:64 and RVAL in 63:0, with
ECAUSE 0 unless ECODE is 2. -/
def Obligations.EveryCommandGetsOneResponse : Prop :=
  (∀ s w rest, s.inputs = .command w :: rest →
    ∃ t r, step s = .next t ∧ t.inputs = rest ∧ t.responses = s.responses ++ [r] ∧
      r.rstat ∈ legalRstat ∧ (r.rstat ≠ 0x00 → r.rval = 0) ∧
      (∀ i, decode w = some i → returnsValue i = false → r.rval = 0)) ∧
  (∀ b ∈ legalRstat, ∃ s w t v, s.inputs = [.command w] ∧ step s = .next t ∧ t.responses = s.responses ++ [⟨b, v⟩]) ∧
  (∀ r, (responseWord r).extractLsb' 64 8 = r.rstat ∧ (responseWord r).extractLsb' 0 64 = r.rval) ∧
  (∀ b ∈ legalRstat, (ecauseOf b ≠ 0 ↔ ecodeOf b = 2) ∧ (ecodeOf b).toNat ≤ 5 ∧ (ecauseOf b).toNat ≤ 4)

/-! ### Steps -/

/-- A step takes the oldest command word presented and, when it decodes, runs the decoded command on the state without that word. -/
def Obligations.StepRunsTheDecodedCommand : Prop :=
  ∀ s w rest i, s.inputs = .command w :: rest → decode w = some i → i.wellFormed = true →
    step s = exec i { s with inputs := rest }

/-- With nothing presented a step leaves the state as it is (60_exceptions.md R215; the idle step is the model's, notes/assumptions/4.md). -/
def Obligations.BlockIsIdleWhenNothingIsPresented : Prop :=
  ∀ s, s.inputs = [] → step s = .next s

/-- 70_reset_and_hazards.md R230. A reset leaves the reset state, with no response for a command in flight; what the host has presented
after it, the earlier responses and the parameters stay (the event is the model's, notes/assumptions/6.md). -/
def Obligations.ResetAbandonsTheCommandInFlight : Prop :=
  ∀ s running rest, s.inputs = .reset running :: rest →
    ∃ t, step s = .next t ∧ AtReset t ∧ t.responses = s.responses ∧ t.inputs = rest ∧ t.params = s.params

/-- A list of commands presented is executed in order, one response each, and running it in two parts is running it whole
(20_memory.md R59; 70_reset_and_hazards.md R233). -/
def Obligations.CommandsRunInTheOrderPresented : Prop :=
  (∀ s cmds, ∃ t, Sys2Proof.core.run cmds.length (presenting s cmds) = .next t ∧ t.inputs = [] ∧
    ∃ rs, rs.length = cmds.length ∧ t.responses = s.responses ++ rs) ∧
  (∀ s cmds more t u, Sys2Proof.core.run cmds.length (presenting s cmds) = .next t →
    Sys2Proof.core.run more.length (presenting t more) = .next u →
    Sys2Proof.core.run (cmds ++ more).length (presenting s (cmds ++ more)) = .next u)

/-! ### Reset and the control commands -/

/-- 10_state.md R35. After reset and after CLR every piece of state has its reset value. -/
def Obligations.ResetAndClrGiveTheResetValues : Prop :=
  AtReset State.reset ∧ ∀ s, ∃ t, exec .clr s = .next t ∧ AtReset t

/-- 43_host_commands.md R170. -/
def Obligations.NopOnlyResponds : Prop :=
  decode 0 = some .nop ∧ ∀ s, exec .nop s = .next (answer s 0x00 0)

/-- 43_host_commands.md R171. CLR gives the reset state and the response (0x00, 0), and keeps what no register holds: the parameters,
what is presented, the earlier responses; after it RDKLEN, RDDLEN, RDCLEN and RDST return 0. -/
def Obligations.ClrReturnsToResetState : Prop :=
  ∀ s, ∃ t, exec .clr s = .next t ∧ AtReset t ∧ t.responses = s.responses ++ [⟨0x00, 0⟩] ∧
    t.inputs = s.inputs ∧ t.params = s.params ∧
    exec .rdklen t = .next (answer t 0x00 0) ∧ exec .rddlen t = .next (answer t 0x00 0) ∧
    exec .rdclen t = .next (answer t 0x00 0) ∧ exec .rdst t = .next (answer t 0x00 0)

/-- 43_host_commands.md R172. -/
def Obligations.RdstReturnsStatus : Prop :=
  ∀ s, exec .rdst s = .next (answer s 0x00 (s.status.setWidth 64))

/-! ### Loading operands -/

/-- 43_host_commands.md R173, R175, R177. The buffer is emptied and nothing else changes; B32DEC after CLRT gives an empty KEY with
status OK, RDKLEN after CLRK returns 0, HMAC after CLRM hashes an empty message. -/
def Obligations.ClearCommandsEmptyTheirBuffer : Prop :=
  ∀ s, exec .clrt s = .next (answer { s with text := [] } 0x00 0) ∧
    exec .clrk s = .next (answer { s with key := [] } 0x00 0) ∧
    exec .clrm s = .next (answer { s with msg := [] } 0x00 0) ∧
    (∃ t, exec .b32dec { s with text := [] } = .next t ∧ t.key = [] ∧ t.status = 0x00) ∧
    exec .rdklen { s with key := [] } = .next (answer { s with key := [] } 0x00 0) ∧
    (∃ t, exec .hmac { s with msg := [] } = .next t ∧ t.digest = hmacSha1 s.key [])

/-- 43_host_commands.md R174, R176, R178. A push appends ARG[7:0] and ignores ARG[63:8], or is refused with Overflow when the length
equals the capacity. -/
def Obligations.PushCommandsAppendOrOverflow : Prop :=
  (∀ s b,
    (s.tlen = s.params.textMax → exec (.pusht b) s = .next (answer s 0x05 0)) ∧
    (s.tlen ≠ s.params.textMax → exec (.pusht b) s = .next (answer { s with text := s.text ++ [b] } 0x00 0)) ∧
    (s.klen = s.params.keyMax → exec (.pushk b) s = .next (answer s 0x05 0)) ∧
    (s.klen ≠ s.params.keyMax → exec (.pushk b) s = .next (answer { s with key := s.key ++ [b] } 0x00 0)) ∧
    (s.mlen = s.params.msgMax → exec (.pushm b) s = .next (answer s 0x05 0)) ∧
    (s.mlen ≠ s.params.msgMax → exec (.pushm b) s = .next (answer { s with msg := s.msg ++ [b] } 0x00 0))) ∧
  (∀ arg, decode (commandWord 0x11 arg) = some (.pusht (BitVec.ofNat 8 arg.toNat)) ∧
    decode (commandWord 0x13 arg) = some (.pushk (BitVec.ofNat 8 arg.toNat)) ∧
    decode (commandWord 0x15 arg) = some (.pushm (BitVec.ofNat 8 arg.toNat)))

/-- 43_host_commands.md R179, R180, R181. Every value can be written; SETSTEP and SETDIG take ARG[31:0] and ignore ARG[63:32]. -/
def Obligations.SetCommandsWriteTheirRegister : Prop :=
  (∀ s v, exec (.setnow v) s = .next (answer { s with now := v } 0x00 0)) ∧
  (∀ s v, exec (.setstep v) s = .next (answer { s with stepSecs := v } 0x00 0)) ∧
  (∀ s v, exec (.setdig v) s = .next (answer { s with digits := v } 0x00 0)) ∧
  (∀ arg, decode (commandWord 0x16 arg) = some (.setnow arg) ∧
    decode (commandWord 0x17 arg) = some (.setstep (BitVec.ofNat 32 arg.toNat)) ∧
    decode (commandWord 0x18 arg) = some (.setdig (BitVec.ofNat 32 arg.toNat)))

/-- 30_encoding.md R77. LOADT, LOADK and LOADM of a sequence that fits leave exactly that sequence in the buffer, every response being
(0x00, 0), and change nothing else. -/
def Obligations.LoadPseudoInstructionsFillTheBuffer : Prop :=
  (∀ s bytes, bytes.length ≤ s.params.textMax →
    Sys2Proof.core.run (bytes.length + 1) (presenting s (loadT bytes)) =
      .next { s with text := bytes, inputs := [], responses := s.responses ++ List.replicate (bytes.length + 1) ⟨0x00, 0⟩ }) ∧
  (∀ s bytes, bytes.length ≤ s.params.keyMax →
    Sys2Proof.core.run (bytes.length + 1) (presenting s (loadK bytes)) =
      .next { s with key := bytes, inputs := [], responses := s.responses ++ List.replicate (bytes.length + 1) ⟨0x00, 0⟩ }) ∧
  (∀ s bytes, bytes.length ≤ s.params.msgMax →
    Sys2Proof.core.run (bytes.length + 1) (presenting s (loadM bytes)) =
      .next { s with msg := bytes, inputs := [], responses := s.responses ++ List.replicate (bytes.length + 1) ⟨0x00, 0⟩ })

/-! ### Reading results -/

/-- 43_host_commands.md R182, R184, R186. -/
def Obligations.ReadLengthCommandsReturnTheLength : Prop :=
  ∀ s, exec .rdklen s = .next (answer s 0x00 (BitVec.ofNat 64 s.klen)) ∧
    exec .rddlen s = .next (answer s 0x00 (BitVec.ofNat 64 s.dlen)) ∧
    exec .rdclen s = .next (answer s 0x00 (BitVec.ofNat 64 s.clen))

/-- 43_host_commands.md R183, R185, R187. An index below the length returns the byte, zero-extended; any other is refused with BadIndex,
without wrap-around. -/
def Obligations.ReadByteCommandsReturnTheByteOrBadIndex : Prop :=
  ∀ s (i : Word64),
    (∀ h : i.toNat < s.key.length, exec (.rdk i) s = .next (answer s 0x00 ((s.key[i.toNat]).setWidth 64))) ∧
    (s.klen ≤ i.toNat → exec (.rdk i) s = .next (answer s 0x04 0)) ∧
    (∀ h : i.toNat < s.digest.length, exec (.rdd i) s = .next (answer s 0x00 ((s.digest[i.toNat]).setWidth 64))) ∧
    (s.dlen ≤ i.toNat → exec (.rdd i) s = .next (answer s 0x04 0)) ∧
    (∀ h : i.toNat < s.code.length, exec (.rdc i) s = .next (answer s 0x00 ((s.code[i.toNat]).setWidth 64))) ∧
    (s.clen ≤ i.toNat → exec (.rdc i) s = .next (answer s 0x04 0))

/-- 30_encoding.md R77. READK, READD and READC return the length and then every byte of the buffer in order, and change nothing. -/
def Obligations.ReadPseudoInstructionsReturnTheBuffer : Prop :=
  ∀ s, s.key.length < 2 ^ 64 → s.digest.length < 2 ^ 64 → s.code.length < 2 ^ 64 →
    Sys2Proof.core.run (s.key.length + 1) (presenting s (readK s.key.length)) =
      .next { s with inputs := [], responses := s.responses ++
        ⟨0x00, BitVec.ofNat 64 s.key.length⟩ :: s.key.map fun b => ⟨0x00, b.setWidth 64⟩ } ∧
    Sys2Proof.core.run (s.digest.length + 1) (presenting s (readD s.digest.length)) =
      .next { s with inputs := [], responses := s.responses ++
        ⟨0x00, BitVec.ofNat 64 s.digest.length⟩ :: s.digest.map fun b => ⟨0x00, b.setWidth 64⟩ } ∧
    Sys2Proof.core.run (s.code.length + 1) (presenting s (readC s.code.length)) =
      .next { s with inputs := [], responses := s.responses ++
        ⟨0x00, BitVec.ofNat 64 s.code.length⟩ :: s.code.map fun b => ⟨0x00, b.setWidth 64⟩ }

/-! ### The Base32 decoder -/

/-- 40_base32.md R90, R105; 60_exceptions.md R204. B32DEC puts the decoded bytes in KEY with status 0x00, or, when the text does not
decode, empties KEY with status 0x01; TEXT, MSG, DIGEST, CODE, NOW, STEP, DIGITS are unchanged and the decoder's registers are zero.
The decoded bytes fit KEY under R9's constraint, and an empty text, a text of padding only and a text of one symbol decode to
nothing. -/
def Obligations.B32decWritesKeyOrFailsWithNoPartialOutput : Prop :=
  (∀ s bytes, b32Decode s.text = some bytes →
    exec .b32dec s = .next (answer { s with
      key := bytes, status := 0x00, hidden := { s.hidden with dec := ⟨0, 0, []⟩ } } 0x00 0)) ∧
  (∀ s, b32Decode s.text = none →
    exec .b32dec s = .next (answer { s with
      key := [], status := 0x01, hidden := { s.hidden with dec := ⟨0, 0, []⟩ } } 0x01 0)) ∧
  (∀ (p : Params) t bytes, p.wellFormed = true → t.length ≤ p.textMax → b32Decode t = some bytes →
    bytes.length ≤ p.keyMax) ∧
  b32Decode [] = some [] ∧ (∀ n, b32Decode (List.replicate n 0x3D) = some []) ∧
  (∀ c, upper c ∈ alphabet → b32Decode [c] = some []) ∧
  b32Decode [0x4D, 0x59] = some [0x66]

/-- 40_base32.md R95. Every code is in exactly one class, 1 padding, 58 symbols, 197 invalid; a symbol's value is its position in the
alphabet; a text with an invalid character anywhere is InvalidCharacter. -/
def Obligations.CharactersFallInThreeClasses : Prop :=
  (∀ c, symbolValue (foldCase c) =
    if upper c ∈ alphabet then some (BitVec.ofNat 5 (alphabet.idxOf (upper c))) else none) ∧
  (∀ c : Byte, c = 0x3D → upper c ∉ alphabet) ∧
  ((List.range 256).filter fun n => upper (BitVec.ofNat 8 n) ∈ alphabet).length = 58 ∧
  ((List.range 256).filter fun n => BitVec.ofNat 8 n ≠ 0x3D ∧ upper (BitVec.ofNat 8 n) ∉ alphabet).length = 197 ∧
  (∀ t c, c ∈ t → invalidChar c → b32Decode t = none)

/-- 40_base32.md R93. A padding character is skipped wherever it stands: the decoder's registers are unchanged by it, and a text decodes
as it does without it. -/
def Obligations.PaddingIsSkippedWhereverItStands : Prop :=
  (∀ d, decodeChar d 0x3D = some d) ∧ ∀ t u, b32Decode (t ++ 0x3D :: u) = b32Decode (t ++ u)

/-- 40_base32.md R102. -/
def Obligations.DecodingIsCaseInsensitive : Prop :=
  ∀ t, b32Decode t = b32Decode (t.map upper)

/-- 40_base32.md R103, R104. Between symbols CNT is at most 7 and 5n = 8 * len(OUT) + CNT after n symbols; after a shift-in CNT is 5 to
12 and one emit brings it to 7 or less; ACC bits at CNT and above never reach an output. -/
def Obligations.AccumulatorStaysInItsBounds : Prop :=
  (∀ d t d', decodeChars (decStart d) t = some d' →
    d'.cnt.toNat ≤ 7 ∧ 5 * (symbols t).length = 8 * d'.out.length + d'.cnt.toNat ∧
    ∀ v, 5 ≤ (shiftIn d' v).cnt.toNat ∧ (shiftIn d' v).cnt.toNat ≤ 12 ∧ (emitByte (shiftIn d' v)).cnt.toNat ≤ 7) ∧
  (∀ d d' t, d.cnt.toNat ≤ 7 → d.cnt = d'.cnt → d.out = d'.out →
    d.acc.toNat % 2 ^ d.cnt.toNat = d'.acc.toNat % 2 ^ d.cnt.toNat →
    (decodeChars d t).map DecoderRegs.out = (decodeChars d' t).map DecoderRegs.out)

/-- The bit accumulator computes Base32: for a text of n symbols and nothing invalid the result has floor(5n / 8) bytes, and read as a
big-endian number it is the symbols' values, read as one number, without the 5n mod 8 leftover bits; any other text fails
(derived from 40_base32.md R95 to R99 and 20_memory.md R53; the length is R103). -/
def Obligations.AccumulatorComputesBase32 : Prop :=
  ∀ t, ((∀ c ∈ t, ¬invalidChar c) →
      ∃ bytes, b32Decode t = some bytes ∧ bytes.length = 5 * (symbols t).length / 8 ∧
        bigEndian bytes = symbolNumber t / 2 ^ (5 * (symbols t).length % 8)) ∧
    ((∃ c ∈ t, invalidChar c) → b32Decode t = none)

/-! ### SHA-1 and HMAC -/

/-- 41_hmac_sha1.md R113. -/
def Obligations.PaddingOfSha1Messages : Prop :=
  (∀ m : List Byte, m.length < 2 ^ 61 →
    ∃ z, (m.length + 1 + z) % 64 = 56 ∧ (∀ z' < z, (m.length + 1 + z') % 64 ≠ 56) ∧
      ∃ len : List Byte, len.length = 8 ∧ bigEndian len = 8 * m.length ∧
        pad m = m ++ [0x80] ++ List.replicate z 0x00 ++ len) ∧
  (∀ m : List Byte, m.length < 2 ^ 61 → (pad m).length = 64 * ((m.length + 8) / 64 + 1))

/-- 41_hmac_sha1.md R114, R116. A block gives 80 words: the first 16 from four consecutive bytes each, most significant first, the others
from the words 3, 8, 14 and 16 places before. -/
def Obligations.MessageScheduleOfABlock : Prop :=
  ∀ blk : List Byte, blk.length = 64 →
    (schedule (blockWords blk)).length = 80 ∧
    (∀ t < 16, ((schedule (blockWords blk)).getD t 0).toNat =
      (blk.getD (4 * t) 0).toNat * 2 ^ 24 + (blk.getD (4 * t + 1) 0).toNat * 2 ^ 16 +
        (blk.getD (4 * t + 2) 0).toNat * 2 ^ 8 + (blk.getD (4 * t + 3) 0).toNat) ∧
    (∀ t, 16 ≤ t → t < 80 → (schedule (blockWords blk)).getD t 0 =
      ((schedule (blockWords blk)).getD (t - 3) 0 ^^^ (schedule (blockWords blk)).getD (t - 8) 0 ^^^
        (schedule (blockWords blk)).getD (t - 14) 0 ^^^ (schedule (blockWords blk)).getD (t - 16) 0).rotateLeft 1)

/-- 41_hmac_sha1.md R116, R117, R118, and the sums of R119. For every chaining value in the engine and every block of 64 bytes, compressing the block
leaves in H0 to H4 the one chaining value that the schedule, the 80 rounds and the chaining update give, and no other. -/
def Obligations.CompressionIsTheEightyRoundsAndTheUpdate : Prop :=
  ∀ (r : Sha1Regs) (blk : List Byte), blk.length = 64 →
    ∀ h', BlockTakes blk (hashValue r) h' ↔ h' = hashValue (compress r blk)

/-- 41_hmac_sha1.md R114, R115, R119, R120. SHA1 of a message starts from the initial value, takes the 64-byte blocks of the padded message
in order, each from the value the block before it left, and gives the last value as 20 bytes, H0 first and each word big-endian. The
engine computes it whatever its registers held, and they are all zero after it. -/
def Obligations.Sha1TakesTheBlocksOfThePaddedMessage : Prop :=
  (∀ m : List Byte, m.length < 2 ^ 61 →
    ∃ h : Nat → HashValue,
      h 0 = ⟨0x67452301, 0xEFCDAB89, 0x98BADCFE, 0x10325476, 0xC3D2E1F0⟩ ∧
      (∀ j < (pad m).length / 64, BlockTakes (((pad m).drop (64 * j)).take 64) (h j) (h (j + 1))) ∧
      (sha1 m).length = 20 ∧ bigEndian (sha1 m) = (h ((pad m).length / 64)).number) ∧
  (∀ r m, sha1Unit r m =
    (⟨0, 0, 0, 0, 0, 0, 0, 0, 0, 0, List.replicate 80 0, List.replicate 64 0, 0⟩, sha1 m))

/-- 41_hmac_sha1.md R121. A rotation moves bit i to bit (i + n) mod 32 and loses none. -/
def Obligations.RotationMovesEveryBit : Prop :=
  ∀ (x : Word32) (n i : Nat), 0 < n → n < 32 → i < 32 → (rotl n x).getLsbD ((i + n) % 32) = x.getLsbD i

/-- 41_hmac_sha1.md R112. The result of the unit has exactly 20 bytes, whatever the lengths of key and message. -/
def Obligations.DigestHasTwentyBytes : Prop :=
  ∀ h key message, (hmacUnit h key message).2.length = 20 ∧ (hmacSha1 key message).length = 20

/-- 41_hmac_sha1.md R122. K0 is the key, or for a key of more than 64 bytes its SHA-1, filled with zeros to 64 bytes; the result is the
outer hash of opad and the inner hash of ipad and the message; K0 and IDIG are zero after it, whatever they held. -/
def Obligations.HmacIsTheTwoHashesOfItsPads : Prop :=
  ∀ h key message, ∃ k0 ipad opad : List Byte,
    k0.length = 64 ∧
    (64 < key.length → k0 = sha1 key ++ List.replicate 44 0x00) ∧
    (key.length ≤ 64 → k0 = key ++ List.replicate (64 - key.length) 0x00) ∧
    ipad.length = 64 ∧ (∀ i < 64, ipad.getD i 0 = k0.getD i 0 ^^^ 0x36) ∧
    opad.length = 64 ∧ (∀ i < 64, opad.getD i 0 = k0.getD i 0 ^^^ 0x5C) ∧
    (hmacUnit h key message).2 = sha1 (opad ++ sha1 (ipad ++ message)) ∧
    (hmacUnit h key message).1.hmac = ⟨List.replicate 64 0, List.replicate 20 0⟩

/-- 41_hmac_sha1.md R110. HMAC puts HMAC_SHA1(KEY, MSG), 20 bytes, in DIGEST with status 0x00 and cannot fail; KEY, MSG, TEXT, CODE, NOW,
STEP, DIGITS are unchanged and the unit's registers are zero. -/
def Obligations.HmacCommandWritesTheDigest : Prop :=
  ∀ s, exec .hmac s = .next (answer { s with
      digest := hmacSha1 s.key s.msg, status := 0x00
      hidden := { s.hidden with sha := .zero, hmac := .zero } } 0x00 0) ∧
    (hmacSha1 s.key s.msg).length = 20

/-! ### Generation -/

/-- 42_totp.md R140, R142; 60_exceptions.md R205. TOTP reports the first check that fails, in the order StepZero, DigitsRange,
InvalidSecret, and leaves CODE empty; when none fails it puts the Code in CODE with status 0x00. Nothing else changes but the hidden
registers of the units that ran, which are zero. -/
def Obligations.TotpWritesTheCodeOrTheFirstFailingCheck : Prop :=
  (∀ s, s.stepSecs = 0 →
    exec .totp s = .next (answer { s with code := [], status := 0x22 } 0x22 0)) ∧
  (∀ s, s.stepSecs ≠ 0 → (s.digits.toNat < 1 ∨ 10 < s.digits.toNat) →
    exec .totp s = .next (answer { s with code := [], status := 0x32 } 0x32 0)) ∧
  (∀ s, s.stepSecs ≠ 0 → 1 ≤ s.digits.toNat → s.digits.toNat ≤ 10 →
    s.params.emptyKeyReject = true → s.key = [] →
    exec .totp s = .next (answer { s with code := [], status := 0x42 } 0x42 0)) ∧
  (∀ s, validOperands s.params.emptyKeyReject s.key s.stepSecs s.digits →
    ∃ chars, genTotp s.params.emptyKeyReject s.key s.now s.stepSecs s.digits = .ok chars ∧
      chars.length = s.digits.toNat ∧
      exec .totp s = .next (answer { s with
        code := chars, status := 0x00
        hidden := { s.hidden with sha := .zero, hmac := .zero, totp := .zero } } 0x00 0))

/-- 42_totp.md R141. TOTPT with a text that does not decode empties KEY and CODE with status 0x12, whatever the other operands are; with
a text that decodes it puts the bytes in KEY and then does exactly what TOTP does. -/
def Obligations.TotptDecodesAndThenActsAsTotp : Prop :=
  (∀ s, b32Decode s.text = none →
    exec .totpt s = .next (answer { s with
      key := [], code := [], status := 0x12, hidden := { s.hidden with dec := ⟨0, 0, []⟩ } } 0x12 0)) ∧
  (∀ s bytes, b32Decode s.text = some bytes →
    ∃ t, exec .totpt s = .next t ∧ t.key = bytes ∧
      exec .totp { s with key := bytes, hidden := { s.hidden with dec := ⟨0, 0, []⟩ } } = .next t)

/-- The generation of 42_totp.md R143 to R149 on numbers: the message is the eight-byte big-endian counter floor(now / step), the digest its
HMAC-SHA1 under the key, and the Code `digits` ASCII digits whose decimal value is the truncated integer modulo 10^digits. -/
def Obligations.GeneratedCodeIsTheTruncatedHmacOfTheCounter : Prop :=
  ∀ (reject : Bool) (key : List Byte) (now : Word64) (stepSecs digits : Word32),
    validOperands reject key stepSecs digits →
    ∃ message chars : List Byte,
      message.length = 8 ∧ bigEndian message = now.toNat / stepSecs.toNat ∧
      genTotp reject key now stepSecs digits = .ok chars ∧
      chars.length = digits.toNat ∧ (∀ c ∈ chars, isDigit c) ∧
      decimalValue chars = truncated (hmacSha1 key message) % 10 ^ digits.toNat

/-- 42_totp.md R151. Whenever TOTP or TOTPT responds OK, CLEN = DIGITS and every byte of CODE is an ASCII digit. -/
def Obligations.CodeHasExactlyDigitsCharacters : Prop :=
  ∀ s t i, i = .totp ∨ i = .totpt → exec i s = .next t → t.status = 0x00 →
    t.clen = s.digits.toNat ∧ ∀ c ∈ t.code, isDigit c

/-- 42_totp.md R152. The response and the CODE of TOTP depend on KEY, NOW, STEP, DIGITS and the parameter only; those of TOTPT on TEXT,
NOW, STEP, DIGITS and the parameter only. -/
def Obligations.GenerationIsDeterministic : Prop :=
  ∀ s s', s.now = s'.now → s.stepSecs = s'.stepSecs → s.digits = s'.digits →
    s.params.emptyKeyReject = s'.params.emptyKeyReject →
    (s.key = s'.key → ∃ t t' r, exec .totp s = .next t ∧ exec .totp s' = .next t' ∧ t.code = t'.code ∧
      t.responses = s.responses ++ [r] ∧ t'.responses = s'.responses ++ [r]) ∧
    (s.text = s'.text → ∃ t t' r, exec .totpt s = .next t ∧ exec .totpt s' = .next t' ∧ t.code = t'.code ∧
      t.responses = s.responses ++ [r] ∧ t'.responses = s'.responses ++ [r])

/-- 42_totp.md R153, first half. Two values of NOW with the same counter give the same Code. -/
def Obligations.SameCounterGivesTheSameCode : Prop :=
  ∀ (reject : Bool) (key : List Byte) (now now' : Word64) (stepSecs digits : Word32),
    now.toNat / stepSecs.toNat = now'.toNat / stepSecs.toNat →
    genTotp reject key now stepSecs digits = genTotp reject key now' stepSecs digits

/-- 42_totp.md R155. When TOTP or TOTPT ends with an error CODE is empty and RDC is then refused for every index. -/
def Obligations.FailedGenerationLeavesNoCode : Prop :=
  ∀ s t i, i = .totp ∨ i = .totpt → exec i s = .next t → t.status ≠ 0x00 →
    t.code = [] ∧ ∀ k, exec (.rdc k) t = .next (answer t 0x04 0)

/-! ### All commands -/

/-- 60_exceptions.md R202. A compute command writes STATUS with the byte it returns as RSTAT; no other command writes STATUS except CLR,
which writes 0x00. -/
def Obligations.OnlyComputeCommandsAndClrWriteStatus : Prop :=
  ∀ i s t, exec i s = .next t →
    (i.isCompute = true → ∃ v, t.responses = s.responses ++ [⟨t.status, v⟩]) ∧
    (i.isCompute = false → i ≠ .clr → t.status = s.status) ∧
    (i = .clr → t.status = 0x00)

/-- 60_exceptions.md R203. A command that ends with IllegalCommand, BadIndex or Overflow changes nothing; the only effect is the response,
with RVAL = 0. -/
def Obligations.RefusedCommandsChangeNothing : Prop :=
  ∀ s t w rest r, s.inputs = .command w :: rest → step s = .next t → t.responses = s.responses ++ [r] →
    r.rstat = 0x03 ∨ r.rstat = 0x04 ∨ r.rstat = 0x05 →
    t = answer { s with inputs := rest } r.rstat 0

/-- 10_state.md R27, the `W` marks. A command changes no register or buffer its row does not mark, and never the parameters, the
sequencer, or what the host has presented. -/
def Obligations.CommandsWriteOnlyWhatTheirRowMarks : Prop :=
  ∀ i s t, exec i s = .next t →
    (∀ c, c ∉ mayWrite i → agreeOn c s t) ∧
    t.params = s.params ∧ t.sequencer = s.sequencer ∧ t.inputs = s.inputs

/-- 10_state.md R27, the `R` and `ret` marks, with 20_memory.md R52 and 42_totp.md R152; 00_scope.md R6. What a command writes and what it
answers depend on the columns its row marks `R` or `ret` and on the parameters only, but for four commands: PUSHT, PUSHK, PUSHM depend on
the buffer they append to as well (TEXT, KEY, MSG; marked `W` alone), and TOTPT does not depend on the KEY it finds (marked `W, R`, and
read only after it is written). They depend on no other register or buffer, on no earlier response, and on no hidden state. -/
def Obligations.CommandsDependOnlyOnWhatTheirRowMarks : Prop :=
  ∀ i s s', s.params = s'.params → (∀ c ∈ mayRead i, agreeOn c s s') →
    ∃ t t' r, exec i s = .next t ∧ exec i s' = .next t' ∧
      t.responses = s.responses ++ [r] ∧ t'.responses = s'.responses ++ [r] ∧
      ∀ c ∈ mayWrite i, agreeOn c t t'

/-- 10_state.md R33. Hidden state is zero between commands; a unit a command runs leaves its registers zero whatever they held; and no
hidden value left by an earlier command reaches a register, a buffer or a response. -/
def Obligations.HiddenStateIsZeroBetweenCommands : Prop :=
  (∀ i s t, s.hidden = .zero → exec i s = .next t → t.hidden = .zero) ∧
  (∀ s t, exec .b32dec s = .next t → t.hidden.dec = .zero) ∧
  (∀ s t, exec .hmac s = .next t → t.hidden.sha = .zero ∧ t.hidden.hmac = .zero) ∧
  (∀ i s h, ∃ t h', exec i s = .next t ∧ exec i { s with hidden := h } = .next { t with hidden := h' })

/-- 20_memory.md R56. The commands R56 names as idempotent leave, when issued twice in a row, the state and the response they leave when
issued once; the read commands change no state; an append that is not refused is not idempotent. -/
def Obligations.RepeatedCommandsAreIdempotent : Prop :=
  (∀ i s t, i ∈ [.clrt, .clrk, .clrm, .clr, .b32dec, .hmac, .totp, .totpt] ∨
      (∃ v, i = .setnow v) ∨ (∃ v, i = .setstep v) ∨ (∃ v, i = .setdig v) →
    exec i s = .next t →
    ∃ r, t.responses = s.responses ++ [r] ∧ exec i t = .next (answer t r.rstat r.rval)) ∧
  (∀ i s t, returnsValue i = true → exec i s = .next t → ∃ r : Response, t = answer s r.rstat r.rval) ∧
  (∀ s b, s.tlen < s.params.textMax →
    ∃ t, exec (.pusht b) s = .next t ∧ t.tlen = s.tlen + 1) ∧
  (∀ s b, s.klen < s.params.keyMax →
    ∃ t, exec (.pushk b) s = .next t ∧ t.klen = s.klen + 1) ∧
  (∀ s b, s.mlen < s.params.msgMax →
    ∃ t, exec (.pushm b) s = .next t ∧ t.mlen = s.mlen + 1)

/-! ### Invariants -/

/-- Reset leaves a legal state, under every value of the parameters that 00_scope.md R9 admits. -/
def Obligations.ResetStateIsLegal : Prop :=
  LegalState State.reset ∧ ∀ p : Params, p.wellFormed = true → LegalState (State.resetWith p)

/-- Every step from a legal state, reachable or not, gives a legal state (10_state.md R24, R25, R33; 00_scope.md R9). -/
def Obligations.EveryStepKeepsTheStateLegal : Prop :=
  ∀ s t, LegalState s → step s = .next t → LegalState t

/-- The block never stops: from every legal state, whatever the host has presented, a run of any length ends in a legal state
(60_exceptions.md R208; 70_reset_and_hazards.md R238). -/
def Obligations.EveryRunFromALegalStateIsSafe : Prop :=
  ∀ n s, LegalState s → SafeRun n s
end

