-- ==== Sys2Proof/Laws/State.lean ====
section
/-! SUPPORT. What each shared update of the state does to each field, one lemma a field; composite updates are rewritten to these. -/

namespace Sys2Proof.Machine

variable (s : State) (st : Byte) (v : Word64) (e : ProtocolError) (bytes : List Byte) (run : Option Word72) (w : Word72)

@[simp] theorem respond_now : (respond s st v).now = s.now := rfl
@[simp] theorem respond_stepSecs : (respond s st v).stepSecs = s.stepSecs := rfl
@[simp] theorem respond_digits : (respond s st v).digits = s.digits := rfl
@[simp] theorem respond_status : (respond s st v).status = s.status := rfl
@[simp] theorem respond_text : (respond s st v).text = s.text := rfl
@[simp] theorem respond_key : (respond s st v).key = s.key := rfl
@[simp] theorem respond_msg : (respond s st v).msg = s.msg := rfl
@[simp] theorem respond_digest : (respond s st v).digest = s.digest := rfl
@[simp] theorem respond_code : (respond s st v).code = s.code := rfl
@[simp] theorem respond_hidden : (respond s st v).hidden = s.hidden := rfl
@[simp] theorem respond_sequencer : (respond s st v).sequencer = s.sequencer := rfl
@[simp] theorem respond_params : (respond s st v).params = s.params := rfl
@[simp] theorem respond_inputs : (respond s st v).inputs = s.inputs := rfl
@[simp] theorem respond_responses : (respond s st v).responses = s.responses ++ [{ rstat := st, rval := v }] := rfl

@[simp] theorem conclude_now : (conclude s st).now = s.now := rfl
@[simp] theorem conclude_stepSecs : (conclude s st).stepSecs = s.stepSecs := rfl
@[simp] theorem conclude_digits : (conclude s st).digits = s.digits := rfl
@[simp] theorem conclude_status : (conclude s st).status = st := rfl
@[simp] theorem conclude_text : (conclude s st).text = s.text := rfl
@[simp] theorem conclude_key : (conclude s st).key = s.key := rfl
@[simp] theorem conclude_msg : (conclude s st).msg = s.msg := rfl
@[simp] theorem conclude_digest : (conclude s st).digest = s.digest := rfl
@[simp] theorem conclude_code : (conclude s st).code = s.code := rfl
@[simp] theorem conclude_hidden : (conclude s st).hidden = s.hidden := rfl
@[simp] theorem conclude_sequencer : (conclude s st).sequencer = s.sequencer := rfl
@[simp] theorem conclude_params : (conclude s st).params = s.params := rfl
@[simp] theorem conclude_inputs : (conclude s st).inputs = s.inputs := rfl
@[simp] theorem conclude_responses : (conclude s st).responses = s.responses ++ [{ rstat := st, rval := 0 }] := rfl

@[simp] theorem resetBlock_now : (resetBlock s).now = 0 := rfl
@[simp] theorem resetBlock_stepSecs : (resetBlock s).stepSecs = 30 := rfl
@[simp] theorem resetBlock_digits : (resetBlock s).digits = 6 := rfl
@[simp] theorem resetBlock_status : (resetBlock s).status = 0x00 := rfl
@[simp] theorem resetBlock_text : (resetBlock s).text = [] := rfl
@[simp] theorem resetBlock_key : (resetBlock s).key = [] := rfl
@[simp] theorem resetBlock_msg : (resetBlock s).msg = [] := rfl
@[simp] theorem resetBlock_digest : (resetBlock s).digest = [] := rfl
@[simp] theorem resetBlock_code : (resetBlock s).code = [] := rfl
@[simp] theorem resetBlock_hidden : (resetBlock s).hidden = Hidden.zero := rfl
@[simp] theorem resetBlock_sequencer : (resetBlock s).sequencer = Sequencer.idle := rfl
@[simp] theorem resetBlock_params : (resetBlock s).params = s.params := rfl
@[simp] theorem resetBlock_inputs : (resetBlock s).inputs = s.inputs := rfl
@[simp] theorem resetBlock_responses : (resetBlock s).responses = s.responses := rfl

@[simp] theorem presentNext_now : (presentNext s w).now = s.now := rfl
@[simp] theorem presentNext_stepSecs : (presentNext s w).stepSecs = s.stepSecs := rfl
@[simp] theorem presentNext_digits : (presentNext s w).digits = s.digits := rfl
@[simp] theorem presentNext_status : (presentNext s w).status = s.status := rfl
@[simp] theorem presentNext_text : (presentNext s w).text = s.text := rfl
@[simp] theorem presentNext_key : (presentNext s w).key = s.key := rfl
@[simp] theorem presentNext_msg : (presentNext s w).msg = s.msg := rfl
@[simp] theorem presentNext_digest : (presentNext s w).digest = s.digest := rfl
@[simp] theorem presentNext_code : (presentNext s w).code = s.code := rfl
@[simp] theorem presentNext_hidden : (presentNext s w).hidden = s.hidden := rfl
@[simp] theorem presentNext_sequencer : (presentNext s w).sequencer = s.sequencer := rfl
@[simp] theorem presentNext_params : (presentNext s w).params = s.params := rfl
@[simp] theorem presentNext_inputs : (presentNext s w).inputs = .command w :: s.inputs := rfl
@[simp] theorem presentNext_responses : (presentNext s w).responses = s.responses := rfl

@[simp] theorem respondOk_eq : respondOk s v = respond s okByte v := rfl
@[simp] theorem refuse_eq : refuse s e = respond s (protocolByte e) 0 := rfl
@[simp] theorem concludeOk_eq : concludeOk s = conclude s okByte := rfl
@[simp] theorem illegalCommand_eq : illegalCommand s = refuse s .illegalCommand := rfl
@[simp] theorem takeReset_eq : takeReset s run = resetBlock s := rfl

@[simp] theorem writeBuffer_text : writeBuffer s .text bytes = { s with text := bytes } := rfl
@[simp] theorem writeBuffer_key : writeBuffer s .key bytes = { s with key := bytes } := rfl
@[simp] theorem writeBuffer_msg : writeBuffer s .msg bytes = { s with msg := bytes } := rfl
@[simp] theorem writeBuffer_digest : writeBuffer s .digest bytes = { s with digest := bytes } := rfl
@[simp] theorem writeBuffer_code : writeBuffer s .code bytes = { s with code := bytes } := rfl

@[simp] theorem readBuffer_text : readBuffer s .text = s.text := rfl
@[simp] theorem readBuffer_key : readBuffer s .key = s.key := rfl
@[simp] theorem readBuffer_msg : readBuffer s .msg = s.msg := rfl
@[simp] theorem readBuffer_digest : readBuffer s .digest = s.digest := rfl
@[simp] theorem readBuffer_code : readBuffer s .code = s.code := rfl

@[simp] theorem capacity_text : capacity s.params .text = s.params.textMax := rfl
@[simp] theorem capacity_key : capacity s.params .key = s.params.keyMax := rfl
@[simp] theorem capacity_msg : capacity s.params .msg = s.params.msgMax := rfl
@[simp] theorem capacity_digest : capacity s.params .digest = 20 := rfl
@[simp] theorem capacity_code : capacity s.params .code = 10 := rfl

@[simp] theorem raiseError_invalidCharacter :
    raiseError s .invalidCharacter = conclude { s with key := [] } 0x01 := rfl

@[simp] theorem raiseError_decodeFailed :
    raiseError s (.generation .decodeFailed) = conclude { s with key := [], code := [] } 0x12 := rfl

@[simp] theorem raiseError_stepZero :
    raiseError s (.generation .stepZero) = conclude { s with code := [] } 0x22 := rfl

@[simp] theorem raiseError_digitsRange :
    raiseError s (.generation .digitsRange) = conclude { s with code := [] } 0x32 := rfl

@[simp] theorem raiseError_invalidSecret :
    raiseError s (.generation .invalidSecret) = conclude { s with code := [] } 0x42 := rfl

@[simp] theorem raiseError_primitiveFailure :
    raiseError s (.generation .primitiveFailure) = conclude { s with code := [] } 0x52 := rfl

/-- The RSTAT bytes of the protocol errors (60_exceptions.md R200). -/
theorem protocolByte_values :
    protocolByte .illegalCommand = 0x03 ∧ protocolByte .badIndex = 0x04 ∧ protocolByte .overflow = 0x05 := by decide

@[simp] theorem okByte_eq : okByte = 0x00 := by decide

end Sys2Proof.Machine
end

