-- ==== Sys2Proof/Laws/Ops.lean ====
section
/-! SUPPORT. One lemma per shared operation, saying everything it can do. -/

namespace Sys2Proof.Machine

/-- Writing one buffer and reading another: the index spaces are disjoint (20_memory.md R50). -/
theorem readBuffer_writeBuffer (s : State) (b b' : Buffer) (bytes : List Byte) :
    readBuffer (writeBuffer s b bytes) b' = if b = b' then bytes else readBuffer s b' := by
  cases b <;> cases b' <;> rfl

/-- An append either is refused at the capacity or makes the buffer one byte longer (20_memory.md R52). -/
theorem appendByte_spec (cap : Nat) (buf : List Byte) (v : Byte) :
    (buf.length = cap ∧ appendByte cap buf v = none) ∨
      (buf.length ≠ cap ∧ appendByte cap buf v = some (buf ++ [v])) := by
  unfold appendByte
  by_cases h : buf.length = cap <;> simp [h]

/-- A push either responds Overflow and changes nothing else, or appends (43_host_commands.md R174, R176, R178). -/
theorem pushByte_spec (s : State) (b : Buffer) (v : Byte) :
    ((readBuffer s b).length = capacity s.params b ∧ pushByte s b v = respond s 0x05 0) ∨
      ((readBuffer s b).length ≠ capacity s.params b ∧
        pushByte s b v = respond (writeBuffer s b (readBuffer s b ++ [v])) 0x00 0) := by
  obtain ⟨h, e⟩ | ⟨h, e⟩ := appendByte_spec (capacity s.params b) (readBuffer s b) v
  · exact .inl ⟨h, by simp only [pushByte, e, refuse_eq, protocolByte_values.2.2]⟩
  · exact .inr ⟨h, by simp only [pushByte, e, respondOk_eq, okByte_eq]⟩

/-- An indexed read either responds BadIndex or returns the byte at the index (43_host_commands.md R183, R185, R187). -/
theorem readIndexed_spec (s : State) (b : Buffer) (i : Word64) :
    ((readBuffer s b).length ≤ i.toNat ∧ readIndexed s b i = respond s 0x04 0) ∨
      (∃ h : i.toNat < (readBuffer s b).length,
        readIndexed s b i = respond s 0x00 (((readBuffer s b)[i.toNat]).setWidth 64)) := by
  by_cases h : i.toNat < (readBuffer s b).length
  · exact .inr ⟨h, by simp [readIndexed, indexedByte, h, byteValue]⟩
  · refine .inl ⟨Nat.le_of_not_lt h, ?_⟩
    have e : indexedByte (readBuffer s b) i = none := List.getElem?_eq_none (Nat.le_of_not_lt h)
    simp only [readIndexed, e, refuse_eq, protocolByte_values.2.1]

/-- The decoder run inside a command changes nothing but its own registers, which end at zero (40_base32.md R98). -/
theorem runDecoder_spec (s : State) :
    runDecoder s = ({ s with hidden := { s.hidden with dec := .zero } }, b32Decode s.text) := by
  simp only [runDecoder, b32Decode, decoderUnit, decStart]
  cases decodeChars { acc := 0, cnt := 0, out := [] } s.text <;> rfl

/-- Taking an event leaves everything else as it was. -/
theorem takeEvent_spec (s : State) :
    (s.inputs = [] ∧ takeEvent s = none) ∨
      (∃ ev rest, s.inputs = ev :: rest ∧ takeEvent s = some (ev, { s with inputs := rest })) := by
  unfold takeEvent
  cases h : s.inputs with
  | nil => exact .inl ⟨rfl, rfl⟩
  | cons ev rest => exact .inr ⟨ev, rest, rfl, rfl⟩

end Sys2Proof.Machine
end

