-- ==== Sys2Proof/Laws/Units.lean ====
section
/-! SUPPORT. The units as functions: what a unit computes does not depend on what its registers held, and they end at zero. -/

namespace Sys2Proof.Machine

/-- The decoder computes R98 whatever its registers held. -/
theorem decoderUnit_eq (d : DecoderRegs) (t : List Byte) : decoderUnit d t = (.zero, b32Decode t) := by
  simp only [b32Decode, decoderUnit, decStart]
  cases decodeChars { acc := 0, cnt := 0, out := [] } t <;> rfl

/-- Two engines with the same chaining value. -/
def sameChain (r r' : Sha1Regs) : Prop :=
  r.h0 = r'.h0 ∧ r.h1 = r'.h1 ∧ r.h2 = r'.h2 ∧ r.h3 = r'.h3 ∧ r.h4 = r'.h4

/-- Two engines that agree on everything but LEN. -/
def sameButLen (r r' : Sha1Regs) : Prop := { r with len := 0 } = { r' with len := 0 }

theorem sha1Round_sameButLen {r r' : Sha1Regs} (h : sameButLen r r') (t : Nat) :
    sameButLen (sha1Round r t) (sha1Round r' t) := by
  simp only [sameButLen, Sha1Regs.mk.injEq, sha1Round] at h ⊢
  obtain ⟨h0, h1, h2, h3, h4, a, b, c, d, e, w, blk, -⟩ := h
  simp [h0, h1, h2, h3, h4, a, b, c, d, e, w, blk]

theorem rounds_sameButLen (ts : List Nat) :
    ∀ {r r' : Sha1Regs}, sameButLen r r' → sameButLen (ts.foldl sha1Round r) (ts.foldl sha1Round r') := by
  induction ts with
  | nil => exact id
  | cons t ts ih => exact fun h => ih (sha1Round_sameButLen h t)

/-- A block's chaining update depends on the chaining value and the block alone (41_hmac_sha1.md R114 to R119). -/
theorem compress_sameChain {r r' : Sha1Regs} (h : sameChain r r') (blk : List Byte) :
    sameChain (compress r blk) (compress r' blk) := by
  have hl : sameButLen (loadBlock r blk) (loadBlock r' blk) := by
    obtain ⟨h0, h1, h2, h3, h4⟩ := h
    simp [sameButLen, loadBlock, h0, h1, h2, h3, h4]
  have hr := rounds_sameButLen (List.range 80) hl
  simp only [sameButLen, Sha1Regs.mk.injEq] at hr
  obtain ⟨h0, h1, h2, h3, h4, a, b, c, d, e, -⟩ := hr
  simp only [compress, chain, sameChain, h0, h1, h2, h3, h4, a, b, c, d, e, and_self]

theorem compressBlocks_sameChain (n : Nat) :
    ∀ {r r' : Sha1Regs} (p : List Byte), sameChain r r' →
      sameChain (compressBlocks n r p) (compressBlocks n r' p) := by
  induction n with
  | zero => exact fun _ h => h
  | succ n ih => exact fun p h => ih _ (compress_sameChain h _)

/-- The engine computes R120 whatever its registers held. -/
theorem sha1Unit_eq (r : Sha1Regs) (m : List Byte) : sha1Unit r m = (.zero, sha1 m) := by
  have h : sameChain (sha1Run r m) (sha1Run .zero m) :=
    compressBlocks_sameChain _ _ ⟨rfl, rfl, rfl, rfl, rfl⟩
  obtain ⟨h0, h1, h2, h3, h4⟩ := h
  simp [sha1, sha1Unit, chainBytes, h0, h1, h2, h3, h4]

/-- The K0 of a key (41_hmac_sha1.md R122). -/
def k0Of (key : List Byte) : List Byte :=
  if 64 < key.length then sha1 key ++ List.replicate 44 0x00
  else key ++ List.replicate (64 - key.length) 0x00

/-- The HMAC unit is the two hashes of R122, whatever the registers held; the engine's and its own registers end at zero. -/
theorem hmacUnit_two_hashes (h : Hidden) (key message : List Byte) :
    hmacUnit h key message =
      ({ h with sha := .zero, hmac := .zero },
        sha1 (xorPad (k0Of key) 0x5C ++ sha1 (xorPad (k0Of key) 0x36 ++ message))) := by
  by_cases hk : 64 < key.length <;>
    simp [hmacUnit, outerHash, innerHash, blockKey, k0Of, Config.blockBytes, sha1Unit_eq, hk]

/-- The HMAC unit computes R122 whatever the registers held. -/
theorem hmacUnit_eq (h : Hidden) (key message : List Byte) :
    hmacUnit h key message = ({ h with sha := .zero, hmac := .zero }, hmacSha1 key message) := by
  simp only [hmacSha1, hmacUnit_two_hashes]

/-- Steps 1 to 5 of R150 leave the pipeline's registers as functions of the operands alone. -/
theorem pipeline_eq (h : Hidden) (key : List Byte) (now : Word64) (stepSecs digits : Word32) :
    pipeline h key now stepSecs digits =
      { h with sha := .zero, hmac := .zero, totp := (pipeline .zero key now stepSecs digits).totp } := by
  simp only [pipeline, moduloStep, truncateStep, offsetStep, digestStep, messageStep, counterStep, hmacUnit_eq]

/-- The pipeline computes R150 whatever the hidden registers held. -/
theorem totpUnit_result (reject : Bool) (h : Hidden) (key : List Byte) (now : Word64) (stepSecs digits : Word32) :
    (totpUnit reject h key now stepSecs digits).2 = genTotp reject key now stepSecs digits := by
  simp only [genTotp, totpUnit]
  cases checkOperands reject key stepSecs digits with
  | some _ => rfl
  | none => simp only [pipeline_eq h]

/-- The hidden registers when the pipeline ends: untouched after an error, else zero in every unit it ran (R150). -/
theorem totpUnit_hidden (reject : Bool) (h : Hidden) (key : List Byte) (now : Word64) (stepSecs digits : Word32) :
    (totpUnit reject h key now stepSecs digits).1 =
      match checkOperands reject key stepSecs digits with
      | some _ => h
      | none => { h with sha := .zero, hmac := .zero, totp := .zero } := by
  simp only [totpUnit]
  cases checkOperands reject key stepSecs digits with
  | some _ => rfl
  | none => simp only [pipeline_eq h]

/-- The checks of R142, in their order: what each answer says about the operands. -/
theorem checkOperands_spec (reject : Bool) (key : List Byte) (stepSecs digits : Word32) :
    (stepSecs = 0 ∧ checkOperands reject key stepSecs digits = some .stepZero) ∨
      (stepSecs ≠ 0 ∧ (digits.toNat < 1 ∨ 10 < digits.toNat) ∧
        checkOperands reject key stepSecs digits = some .digitsRange) ∨
      (stepSecs ≠ 0 ∧ 1 ≤ digits.toNat ∧ digits.toNat ≤ 10 ∧ reject = true ∧ key = [] ∧
        checkOperands reject key stepSecs digits = some .invalidSecret) ∨
      (stepSecs ≠ 0 ∧ 1 ≤ digits.toNat ∧ digits.toNat ≤ 10 ∧ ¬(reject = true ∧ key = []) ∧
        checkOperands reject key stepSecs digits = none) := by
  unfold checkOperands
  by_cases h1 : stepSecs = 0
  · exact .inl ⟨h1, if_pos h1⟩
  · rw [if_neg h1]
    by_cases h2 : digits.toNat < 1 ∨ 10 < digits.toNat
    · exact .inr (.inl ⟨h1, h2, if_pos h2⟩)
    · have low : 1 ≤ digits.toNat := by omega
      have high : digits.toNat ≤ 10 := by omega
      by_cases h3 : reject = true ∧ key.length = 0
      · exact .inr (.inr (.inl ⟨h1, low, high, h3.1, List.length_eq_zero_iff.mp h3.2, by rw [if_neg h2, if_pos h3]⟩))
      · refine .inr (.inr (.inr ⟨h1, low, high, ?_, by rw [if_neg h2, if_neg h3]⟩))
        rwa [List.length_eq_zero_iff] at h3

end Sys2Proof.Machine
end

