-- ==== Sys2Proof/Laws/Base32.lean ====
section
/-! SUPPORT. What each step of the Base32 decoder does to its registers (40_base32.md R91 to R97). -/

namespace Sys2Proof.Machine

variable (d : DecoderRegs) (v : BitVec 5) (c : Byte) (t : List Byte)

@[simp] theorem decStart_eq : decStart d = { acc := 0, cnt := 0, out := [] } := rfl

@[simp] theorem shiftIn_acc : (shiftIn d v).acc = (d.acc <<< 5) ||| v.setWidth 13 := rfl

@[simp] theorem shiftIn_cnt : (shiftIn d v).cnt = d.cnt + 5 := rfl

@[simp] theorem shiftIn_out : (shiftIn d v).out = d.out := rfl

@[simp] theorem emitByte_acc : (emitByte d).acc = d.acc := by unfold emitByte; split <;> rfl

/-- With 8 bits or more buffered one byte is emitted (R97). -/
theorem emitByte_of_full (h : 8 ≤ d.cnt.toNat) :
    emitByte d = { d with
      out := d.out ++ [(d.acc >>> (d.cnt - 8#4).toNat).setWidth 8], cnt := d.cnt - 8#4 } := if_pos h

/-- With fewer than 8 bits buffered nothing is emitted (R97). -/
theorem emitByte_of_short (h : d.cnt.toNat < 8) : emitByte d = d := if_neg (Nat.not_le.mpr h)

/-- The count after an emit that happens (R97). -/
theorem toNat_cnt_sub_eight (h : 8 ≤ d.cnt.toNat) : (d.cnt - 8#4).toNat = d.cnt.toNat - 8 :=
  BitVec.toNat_sub_of_le (y := 8#4) h

/-- The count after a shift-in, for the counts a decode can have between symbols (R96, R104). -/
theorem toNat_cnt_add_five (h : d.cnt.toNat ≤ 7) : (d.cnt + 5).toNat = d.cnt.toNat + 5 := by
  rw [BitVec.toNat_add]
  exact Nat.mod_eq_of_lt (Nat.lt_of_le_of_lt (Nat.add_le_add_right h 5) (by decide))

/-- The three classes of a character (R93, R95). -/
theorem decodeChar_spec :
    (c = padChar ∧ decodeChar d c = some d) ∨
      (c ≠ padChar ∧ symbolValue (foldCase c) = none ∧ decodeChar d c = none) ∨
      (c ≠ padChar ∧ ∃ v, symbolValue (foldCase c) = some v ∧ decodeChar d c = some (emitByte (shiftIn d v))) := by
  unfold decodeChar
  by_cases h : c = padChar
  · exact .inl ⟨h, if_pos h⟩
  · rw [if_neg h]
    cases symbolValue (foldCase c) with
    | none => exact .inr (.inl ⟨h, rfl, rfl⟩)
    | some v => exact .inr (.inr ⟨h, v, rfl, rfl⟩)

@[simp] theorem decodeChars_nil : decodeChars d [] = some d := rfl

/-- One character and then the rest (R92). -/
theorem decodeChars_cons : decodeChars d (c :: t) = (decodeChar d c).bind fun d' => decodeChars d' t := by
  simp only [decodeChars]
  cases decodeChar d c <;> rfl

/-- The decode of a text from the registers after its last character (R98). -/
theorem b32Decode_eq : b32Decode t = (decodeChars { acc := 0, cnt := 0, out := [] } t).map DecoderRegs.out := by
  simp only [b32Decode, decoderUnit, decStart]
  cases decodeChars { acc := 0, cnt := 0, out := [] } t <;> rfl

end Sys2Proof.Machine
end

