-- ==== Sys2Proof/Laws/PerInstr.lean ====
section
/-! SUPPORT. Statements for all instructions, one lemma per constructor: an encoded command carries its own opcode in OP, its operand in
ARG, and an opcode that is legal (30_encoding.md R70, R72, R74). -/

namespace Sys2Proof.Laws.EncodesOwnOpcode

open Sys2Proof

/-- The word of a command has the command's OP and ARG, that OP is legal, and ARG holds 0 in every bit the command ignores. -/
def Statement (i : Instr) : Prop :=
  opField (encode i) = i.opcode ∧ argField (encode i) = i.arg ∧ legalOp i.opcode = true ∧ i.arg &&& i.argMask = i.arg

/-- The fields of a command word are the two values it was made from (R70). -/
theorem fields_commandWord (op : Byte) (arg : Word64) :
    opField (commandWord op arg) = op ∧ argField (commandWord op arg) = arg := by
  constructor
  · simp only [opField, commandWord]; exact BitVec.extractLsb'_append_eq_left
  · simp only [argField, commandWord]; exact BitVec.extractLsb'_append_eq_right

theorem noOperand (i : Instr) (ho : legalOp i.opcode = true) (ha : i.arg = 0) : Statement i :=
  ⟨(fields_commandWord _ _).1, (fields_commandWord _ _).2, ho, by rw [ha]; exact BitVec.zero_and⟩

theorem byteOperand (i : Instr) (b : Byte) (ho : legalOp i.opcode = true) (ha : i.arg = b.setWidth 64)
    (hm : i.argMask = 0xFF) : Statement i := by
  refine ⟨(fields_commandWord _ _).1, (fields_commandWord _ _).2, ho, ?_⟩
  rw [ha, hm]
  apply BitVec.eq_of_toNat_eq
  rw [BitVec.toNat_and, BitVec.toNat_setWidth, Nat.mod_eq_of_lt (by omega)]
  exact (Nat.and_two_pow_sub_one_eq_mod b.toNat 8).trans (Nat.mod_eq_of_lt b.isLt)

theorem wordOperand (i : Instr) (v : Word32) (ho : legalOp i.opcode = true) (ha : i.arg = v.setWidth 64)
    (hm : i.argMask = 0xFFFFFFFF) : Statement i := by
  refine ⟨(fields_commandWord _ _).1, (fields_commandWord _ _).2, ho, ?_⟩
  rw [ha, hm]
  apply BitVec.eq_of_toNat_eq
  rw [BitVec.toNat_and, BitVec.toNat_setWidth, Nat.mod_eq_of_lt (by omega)]
  exact (Nat.and_two_pow_sub_one_eq_mod v.toNat 32).trans (Nat.mod_eq_of_lt v.isLt)

theorem fullOperand (i : Instr) (ho : legalOp i.opcode = true) (hm : i.argMask = BitVec.allOnes 64) : Statement i :=
  ⟨(fields_commandWord _ _).1, (fields_commandWord _ _).2, ho, by rw [hm]; exact BitVec.and_allOnes⟩

theorem nop : Statement .nop := noOperand _ (by decide) rfl
theorem clr : Statement .clr := noOperand _ (by decide) rfl
theorem rdst : Statement .rdst := noOperand _ (by decide) rfl
theorem clrt : Statement .clrt := noOperand _ (by decide) rfl
theorem pusht (char : Byte) : Statement (.pusht char) := byteOperand _ char (show legalOp 0x11 = true by decide) rfl rfl
theorem clrk : Statement .clrk := noOperand _ (by decide) rfl
theorem pushk (byte : Byte) : Statement (.pushk byte) := byteOperand _ byte (show legalOp 0x13 = true by decide) rfl rfl
theorem clrm : Statement .clrm := noOperand _ (by decide) rfl
theorem pushm (byte : Byte) : Statement (.pushm byte) := byteOperand _ byte (show legalOp 0x15 = true by decide) rfl rfl
theorem setnow (now : Word64) : Statement (.setnow now) := fullOperand _ (show legalOp 0x16 = true by decide) rfl
theorem setstep (secs : Word32) : Statement (.setstep secs) := wordOperand _ secs (show legalOp 0x17 = true by decide) rfl rfl
theorem setdig (digits : Word32) : Statement (.setdig digits) :=
  wordOperand _ digits (show legalOp 0x18 = true by decide) rfl rfl
theorem rdklen : Statement .rdklen := noOperand _ (by decide) rfl
theorem rdk (index : Word64) : Statement (.rdk index) := fullOperand _ (show legalOp 0x21 = true by decide) rfl
theorem rddlen : Statement .rddlen := noOperand _ (by decide) rfl
theorem rdd (index : Word64) : Statement (.rdd index) := fullOperand _ (show legalOp 0x23 = true by decide) rfl
theorem rdclen : Statement .rdclen := noOperand _ (by decide) rfl
theorem rdc (index : Word64) : Statement (.rdc index) := fullOperand _ (show legalOp 0x25 = true by decide) rfl
theorem b32dec : Statement .b32dec := noOperand _ (by decide) rfl
theorem hmac : Statement .hmac := noOperand _ (by decide) rfl
theorem totp : Statement .totp := noOperand _ (by decide) rfl
theorem totpt : Statement .totpt := noOperand _ (by decide) rfl

end Sys2Proof.Laws.EncodesOwnOpcode
end

