-- ==== Sys2Proof/Tests/Slice0.lean ====
section
/-! SUPPORT. Tests on small states, their expected results taken from the rules' own examples and 95_test_vectors.md; and, for every
statement with hypotheses, a state and operands that meet them. -/

namespace Sys2Proof.Tests

open Sys2Proof Sys2Proof.Machine

/-- A legal state with something in every buffer. -/
def demo : State :=
  { State.reset with
    now := 59, status := 0x12, text := [0x4D, 0x59], key := [0x4A, 0x65, 0x66, 0x65], msg := [0x68]
    digest := List.replicate 20 0xEF, code := [0x30, 0x37] }

/-- A state whose TEXT, KEY and MSG are full. -/
def full : State := { demo with params := { textMax := 2, keyMax := 4, msgMax := 1, emptyKeyReject := true } }

/-- The state one command leaves. -/
def after (i : Instr) (s : State) : State :=
  match exec i s with
  | .next t => t
  | _ => s

/-- The state the next step leaves when the host presents a word. -/
def afterWord (w : Word72) (s : State) : State :=
  match step (s.withFetchWord 72 w.toNat) with
  | .next t => t
  | _ => s

/-- The last response of a state, as two numbers. -/
def last (s : State) : Option (Nat × Nat) := s.responses.getLast?.map fun r => (r.rstat.toNat, r.rval.toNat)

/-! ### Well-formedness: an ill-formed term for each check -/

theorem test_params_textMax_low : Params.wellFormed ⟨31, 40, 64, false⟩ = false := by decide
theorem test_params_keyMax_low : Params.wellFormed ⟨32, 19, 64, false⟩ = false := by decide
theorem test_params_msgMax_low : Params.wellFormed ⟨32, 20, 7, false⟩ = false := by decide
theorem test_params_key_below_decode : Params.wellFormed ⟨64, 39, 64, false⟩ = false := by decide
theorem test_params_keyMax_high : Params.wellFormed ⟨64, 2 ^ 61 - 64, 64, false⟩ = false := by decide
theorem test_params_msgMax_high : Params.wellFormed ⟨64, 40, 2 ^ 61 - 64, false⟩ = false := by decide
theorem test_params_least : Params.wellFormed ⟨32, 20, 8, true⟩ = true := by decide
/-- V60 and the ends of R74's four ranges. -/
theorem test_illegal_opcodes : [0x03#8, 0x0F, 0x19, 0x1F, 0x26, 0x2F, 0x34, 0xFF].all (fun op => !legalOp op) = true := by
  decide
theorem test_legal_opcodes : [0x00#8, 0x02, 0x10, 0x18, 0x20, 0x25, 0x30, 0x33].all legalOp = true := by decide

/-! ### Decoding: words written out from 30_encoding.md R72 -/

theorem test_decode_control :
    decode 0x000000000000000000 = some .nop ∧ decode 0x01FFFFFFFFFFFFFFFF = some .clr ∧
      decode 0x020000000000000000 = some .rdst := by decide
theorem test_decode_text : decode 0x100000000000000000 = some .clrt ∧ decode 0x110000000000000047 = some (.pusht 0x47) := by
  decide
theorem test_decode_key : decode 0x120000000000000000 = some .clrk ∧ decode 0x13000000000000004A = some (.pushk 0x4A) := by
  decide
theorem test_decode_msg : decode 0x140000000000000000 = some .clrm ∧ decode 0x150000000000000048 = some (.pushm 0x48) := by
  decide
theorem test_decode_set :
    decode 0x16000000000000003B = some (.setnow 59) ∧ decode 0x17000000000000001E = some (.setstep 30) ∧
      decode 0x180000000100000006 = some (.setdig 6) := by decide
theorem test_decode_read_key :
    decode 0x200000000000000000 = some .rdklen ∧ decode 0x210000000000000013 = some (.rdk 19) := by decide
theorem test_decode_read_digest :
    decode 0x220000000000000000 = some .rddlen ∧ decode 0x230000000000000013 = some (.rdd 19) := by decide
theorem test_decode_read_code :
    decode 0x240000000000000000 = some .rdclen ∧ decode 0x250000000000000008 = some (.rdc 8) := by decide
theorem test_decode_compute :
    decode 0x300000000000000000 = some .b32dec ∧ decode 0x310000000000000000 = some .hmac ∧
      decode 0x320000000000000000 = some .totp ∧ decode 0x330000000000000000 = some .totpt := by decide
theorem test_decode_illegal : decode 0x340000000000000000 = none ∧ decode 0xFFFFFFFFFFFFFFFFFF = none := by decide
theorem test_decodeTableWord : decodeTableWord 72 0x17000000000000001E = some (.setstep 30) := by decide

/-! ### Steps and host commands -/

/-- V65. -/
theorem test_nop_ignores_arg : afterWord 0x00FFFFFFFFFFFFFFFF demo = answer demo 0x00 0 := by decide
/-- V60. -/
theorem test_illegal_command : afterWord 0x340000000000000000 demo = answer demo 0x03 0 := by decide
/-- R171. -/
theorem test_clr_restores_defaults :
    (after .clr { demo with stepSecs := 0 }).stepSecs = 30 ∧ (after .clr demo).key = [] ∧
      (after .clr demo).now = 0 ∧ last (after .clr demo) = some (0, 0) := by decide
/-- R172: RDST returns STATUS and does not clear it. -/
theorem test_rdst : last (after .rdst demo) = some (0, 0x12) ∧ (after .rdst demo).status = 0x12 := by decide
theorem test_clrt : (after .clrt demo).text = [] ∧ (after .clrt demo).key = demo.key := by decide
/-- V63. -/
theorem test_pusht_drops_high_bits : (afterWord 0x110000000000000141 demo).text = [0x4D, 0x59, 0x41] := by decide
/-- V62. -/
theorem test_pusht_overflow : after (.pusht 0x41) full = answer full 0x05 0 := by decide
theorem test_clrk : (after .clrk demo).key = [] ∧ (after .clrk demo).code = demo.code := by decide
/-- R176. -/
theorem test_pushk : (after (.pushk 0x4A) State.reset).key = [0x4A] := by decide
theorem test_pushk_overflow : last (after (.pushk 0) full) = some (5, 0) := by decide
theorem test_clrm : (after .clrm demo).msg = [] ∧ (after .clrm demo).text = demo.text := by decide
/-- R178. -/
theorem test_pushm : (after (.pushm 0x48) State.reset).msg = [0x48] := by decide
theorem test_pushm_overflow : (after (.pushm 0) full).msg = full.msg := by decide
theorem test_setnow : (after (.setnow 0xFFFFFFFFFFFFFFFF) demo).now = 0xFFFFFFFFFFFFFFFF := by decide
/-- V63. -/
theorem test_setstep_drops_high_bits : (afterWord 0x170000000100000000 demo).stepSecs = 0 := by decide
/-- V63, and R181: CODE is not resized. -/
theorem test_setdig : (afterWord 0x180000000100000008 demo).digits = 8 ∧ (after (.setdig 8) demo).code = demo.code := by
  decide
theorem test_rdklen : last (after .rdklen demo) = some (0, 4) := by decide
/-- V61: no wrap-around. -/
theorem test_rdk : last (after (.rdk 3) demo) = some (0, 0x65) ∧ last (after (.rdk 4) demo) = some (4, 0) := by decide
theorem test_rdk_no_wrap : after (.rdk 0xFFFFFFFFFFFFFFFF) demo = answer demo 0x04 0 := by decide
theorem test_rddlen : last (after .rddlen demo) = some (0, 20) ∧ last (after .rddlen State.reset) = some (0, 0) := by decide
theorem test_rdd : last (after (.rdd 19) demo) = some (0, 0xEF) ∧ last (after (.rdd 20) demo) = some (4, 0) := by decide
theorem test_rdclen : last (after .rdclen demo) = some (0, 2) := by decide
/-- R187: index 0 is the leftmost character. -/
theorem test_rdc : last (after (.rdc 0) demo) = some (0, 0x30) ∧ last (after (.rdc 1) demo) = some (0, 0x37) := by decide
/-- R230. -/
theorem test_reset_event :
    step { demo with inputs := [.reset (some 0x310000000000000000)] } = .next State.reset := by rfl

/-! ### The units -/

/-- V10. -/
theorem test_b32dec : (after .b32dec demo).key = [0x66] ∧ (after .b32dec demo).status = 0x00 := by decide
/-- V1A: no partial output. -/
theorem test_b32dec_invalid :
    (after .b32dec { demo with text := [0x4D, 0x59, 0x31] }).key = [] ∧
      last (after .b32dec { demo with text := [0x4D, 0x59, 0x31] }) = some (1, 0) := by decide
/-- V17: the accumulator is saturated with stale bits. -/
theorem test_decode_stale_bits : b32Decode (List.replicate 8 0x37) = some [0xFF, 0xFF, 0xFF, 0xFF, 0xFF] := by decide
/-- V16. -/
theorem test_decode_interior_padding : b32Decode [0x3D, 0x41, 0x3D, 0x41, 0x3D] = some [0x00] := by decide
/-- V31. -/
theorem test_sha1_abc : bigEndian (sha1 [0x61, 0x62, 0x63]) = 0xa9993e364706816aba3e25717850c26c9cd0d89d := by
  decide +kernel
/-- V33: two blocks. -/
theorem test_sha1_two_blocks :
    bigEndian (sha1 (List.replicate 56 0x61)) = 0xc2db330f6083854c99d4b5bfb6e8f29f201be699 := by decide +kernel
/-- V21. -/
theorem test_hmac :
    bigEndian (after .hmac { demo with msg := [0x77, 0x68, 0x61, 0x74, 0x20, 0x64, 0x6F, 0x20, 0x79, 0x61, 0x20, 0x77, 0x61, 0x6E,
      0x74, 0x20, 0x66, 0x6F, 0x72, 0x20, 0x6E, 0x6F, 0x74, 0x68, 0x69, 0x6E, 0x67, 0x3F] }).digest =
      0xeffcdf6ae5eb2fa2d27416d5f184df9c259a7c79 := by decide +kernel
/-- V27: a key of 65 bytes is hashed first. -/
theorem test_hmac_long_key :
    bigEndian (after .hmac { demo with key := List.replicate 65 0x6B, msg := [0x6D] }).digest =
      0xd7ab367121230c7e073a785f02c779c915e96d01 := by decide +kernel
/-- V42: "14050471", the top bit of 0x98 masked off. -/
theorem test_totp :
    (after .totp { demo with
      key := [0x31, 0x32, 0x33, 0x34, 0x35, 0x36, 0x37, 0x38, 0x39, 0x30, 0x31, 0x32, 0x33, 0x34, 0x35, 0x36, 0x37, 0x38, 0x39, 0x30]
      now := 1111111111, digits := 8 }).code = [0x31, 0x34, 0x30, 0x35, 0x30, 0x34, 0x37, 0x31] := by decide +kernel
/-- V4C: StepZero is reported before DigitsRange, and the earlier code is gone. -/
theorem test_totp_priority :
    last (after .totp { full with key := [], stepSecs := 0, digits := 0 }) = some (0x22, 0) ∧
      (after .totp { full with key := [], stepSecs := 0, digits := 0 }).code = [] := by decide
/-- Program P2: "jbswy===" at time 59 gives "955620". -/
theorem test_totpt :
    (after .totpt { demo with text := [0x6A, 0x62, 0x73, 0x77, 0x79, 0x3D, 0x3D, 0x3D] }).code =
      [0x39, 0x35, 0x35, 0x36, 0x32, 0x30] := by decide +kernel
/-- V4C: the decode is tested first, and KEY and CODE are emptied. -/
theorem test_totpt_decode_first :
    last (after .totpt { demo with text := [0x41, 0x31], stepSecs := 0, digits := 0 }) = some (0x12, 0) ∧
      (after .totpt { demo with text := [0x41, 0x31] }).key = [] ∧ (after .totpt { demo with text := [0x41, 0x31] }).code = [] := by
  decide
/-- V2. -/
theorem test_decimalString : decimalString 42 6 = [0x30, 0x30, 0x30, 0x30, 0x34, 0x32] := by decide

/-! ### The notation of R76 -/

theorem test_assemble_number : assembleLine ['S', 'E', 'T', 'N', 'O', 'W', ' ', '5', '9'] = some 0x16000000000000003B := by decide
theorem test_assemble_char :
    assembleLine ['P', 'U', 'S', 'H', 'T', ' ', Char.ofNat 39, 'G', Char.ofNat 39, ' ', ';', ' ', 'x'] =
      some 0x110000000000000047 := by decide
theorem test_assemble_missing_arg : assembleLine ['N', 'O', 'P'] = some 0 := by decide
theorem test_assemble_hex : assembleLine ['P', 'U', 'S', 'H', 'K', ' ', '0', 'x', '4', 'A'] = some 0x13000000000000004A := by decide
theorem test_hexWord :
    hexWord (encode (.setnow 59)) = ['1', '6', '0', '0', '0', '0', '0', '0', '0', '0', '0', '0', '0', '0', '0', '0', '3', 'B'] := by
  decide

/-! ### Witnesses: the hypotheses of every statement can be met -/

/-- The state with one command word presented. -/
def given (w : Word72) (s : State) : State := { s with inputs := [.command w] }

theorem demo_legal : LegalState demo where
  params := by decide
  text := by decide
  key := by decide
  msg := by decide
  digest := by decide
  code := by decide
  codeDigits := by unfold isDigit; decide
  status := by decide
  hidden := rfl

theorem witness_DecodeOfEncodeIsTheCommand : (Instr.rdk 0xFFFFFFFFFFFFFFFF).wellFormed = true := by decide
theorem witness_DecoderIsTotalAndUnambiguous :
    decode 0x100000000000000000 = some .clrt ∧ decode 0x120000000000000000 = some .clrk ∧
      opField 0x100000000000000000 ≠ opField 0x120000000000000000 := by decide
theorem witness_UnlistedOpcodesAreRefusedAsIllegal :
    (given 0x340000000000000000 demo).inputs = [.command 0x340000000000000000] ∧ decode 0x340000000000000000 = none := by decide
theorem witness_EveryCommandGetsOneResponse :
    (given 0 demo).inputs = [.command 0] ∧ decode 0 = some .nop ∧ returnsValue .nop = false ∧ 0x42#8 ∈ legalRstat := by decide
theorem witness_StepRunsTheDecodedCommand :
    (given 0x110000000000000047 demo).inputs = [.command 0x110000000000000047] ∧
      decode 0x110000000000000047 = some (.pusht 0x47) ∧ (Instr.pusht 0x47).wellFormed = true := by decide
theorem witness_BlockIsIdleWhenNothingIsPresented : demo.inputs = [] := by decide
theorem witness_ResetAbandonsTheCommandInFlight :
    ({ demo with inputs := [.reset (some 0)] } : State).inputs = [.reset (some 0)] := by decide
theorem witness_CommandsRunInTheOrderPresented :
    ∃ t u, Sys2Proof.core.run [Instr.clrt].length (presenting demo [.clrt]) = .next t ∧
      Sys2Proof.core.run [Instr.pusht 0x47].length (presenting t [.pusht 0x47]) = .next u ∧ u.text = [0x47] :=
  ⟨_, _, rfl, rfl, by decide⟩
theorem witness_PushCommandsAppendOrOverflow :
    full.tlen = full.params.textMax ∧ full.klen = full.params.keyMax ∧ full.mlen = full.params.msgMax ∧
      demo.tlen ≠ demo.params.textMax ∧ demo.klen ≠ demo.params.keyMax ∧ demo.mlen ≠ demo.params.msgMax := by decide
theorem witness_LoadPseudoInstructionsFillTheBuffer :
    (List.replicate 64 0x41#8).length ≤ demo.params.textMax ∧ (List.replicate 40 0x41#8).length ≤ demo.params.keyMax ∧
      (List.replicate 64 0x41#8).length ≤ demo.params.msgMax := by decide
theorem witness_ReadByteCommandsReturnTheByteOrBadIndex :
    (3#64).toNat < demo.key.length ∧ demo.klen ≤ (4#64).toNat ∧ (19#64).toNat < demo.digest.length ∧
      demo.dlen ≤ (20#64).toNat ∧ (1#64).toNat < demo.code.length ∧ demo.clen ≤ (2#64).toNat := by decide
theorem witness_ReadPseudoInstructionsReturnTheBuffer :
    demo.key.length < 2 ^ 64 ∧ demo.digest.length < 2 ^ 64 ∧ demo.code.length < 2 ^ 64 := by decide
theorem witness_B32decWritesKeyOrFailsWithNoPartialOutput :
    b32Decode demo.text = some [0x66] ∧ b32Decode { demo with text := [0x31] }.text = none ∧
      Params.wellFormed ⟨64, 40, 8, false⟩ = true ∧ (List.replicate 64 0x41#8).length ≤ 64 ∧
      b32Decode (List.replicate 64 0x41) = some (List.replicate 40 0x00) ∧ upper 0x7A ∈ alphabet := by decide +kernel
theorem witness_CharactersFallInThreeClasses :
    0x31#8 ∈ [0x41#8, 0x31] ∧ invalidChar 0x31 ∧ upper 0x61 ∈ alphabet := by unfold invalidChar; decide
theorem witness_AccumulatorStaysInItsBounds :
    decodeChars (decStart ⟨0x1FFF, 15, [0x11]⟩) [0x4D, 0x59] = some ⟨0x198, 2, [0x66]⟩ ∧
      (2#4).toNat ≤ 7 ∧ (0x198#13).toNat % 2 ^ 2 = (0x000#13).toNat % 2 ^ 2 := by decide
theorem witness_AccumulatorComputesBase32 :
    (∀ c ∈ [0x4D#8, 0x79, 0x3D], ¬invalidChar c) ∧ (∃ c ∈ [0x4D#8, 0x2D], invalidChar c) := by unfold invalidChar; decide
theorem witness_PaddingOfSha1Messages : ([] : List Byte).length < 2 ^ 61 ∧ (List.replicate 56 0x61#8).length < 2 ^ 61 := by decide
theorem witness_MessageScheduleOfABlock : (List.replicate 64 0x61#8).length = 64 ∧ 15 < 16 ∧ 16 ≤ 79 ∧ 79 < 80 := by decide
theorem witness_CompressionIsTheEightyRoundsAndTheUpdate : (List.replicate 64 0x61#8).length = 64 := by decide
theorem witness_Sha1TakesTheBlocksOfThePaddedMessage :
    (List.replicate 56 0x61#8).length < 2 ^ 61 ∧ 1 < (pad (List.replicate 56 0x61#8)).length / 64 := by decide +kernel
theorem witness_RotationMovesEveryBit : 0 < 31 ∧ 31 < 32 ∧ (rotl 31 2).getLsbD ((1 + 31) % 32) = (2#32).getLsbD 1 := by decide
theorem witness_HmacIsTheTwoHashesOfItsPads :
    64 < (List.replicate 65 0x6B#8).length ∧ (List.replicate 64 0x6B#8).length ≤ 64 := by decide
theorem witness_TotpWritesTheCodeOrTheFirstFailingCheck :
    ({ demo with stepSecs := 0 } : State).stepSecs = 0 ∧ demo.stepSecs ≠ 0 ∧ (0#32).toNat < 1 ∧ 10 < (11#32).toNat ∧
      ({ full with key := [] } : State).params.emptyKeyReject = true ∧ 1 ≤ full.digits.toNat ∧ full.digits.toNat ≤ 10 ∧
      validOperands false [] 30 1 ∧ validOperands true [0x00] 1 10 := by unfold validOperands; decide
theorem witness_TotptDecodesAndThenActsAsTotp :
    b32Decode demo.text = some [0x66] ∧ b32Decode { demo with text := [0x31] }.text = none := by decide
theorem witness_GeneratedCodeIsTheTruncatedHmacOfTheCounter :
    validOperands false [] 1 10 ∧ validOperands true demo.key 30 1 := by unfold validOperands; decide
theorem witness_CodeHasExactlyDigitsCharacters :
    (∃ t, exec .totp demo = .next t ∧ t.status = 0x00) ∧ (∃ t, exec .totpt demo = .next t ∧ t.status = 0x00) :=
  ⟨⟨_, rfl, rfl⟩, ⟨_, rfl, rfl⟩⟩
theorem witness_GenerationIsDeterministic :
    let other : State := { demo with msg := [], digest := [], code := [], status := 0, responses := [⟨0, 0⟩] }
    demo ≠ other ∧ demo.now = other.now ∧ demo.stepSecs = other.stepSecs ∧ demo.digits = other.digits ∧
      demo.params.emptyKeyReject = other.params.emptyKeyReject ∧ demo.key = other.key ∧ demo.text = other.text := by decide
theorem witness_SameCounterGivesTheSameCode :
    (30#64).toNat / (30#32).toNat = (59#64).toNat / (30#32).toNat ∧ (30#64) ≠ 59#64 := by decide
theorem witness_FailedGenerationLeavesNoCode :
    (∃ t, exec .totp { demo with stepSecs := 0 } = .next t ∧ t.status ≠ 0x00) ∧
      (∃ t, exec .totpt { demo with text := [0x31] } = .next t ∧ t.status ≠ 0x00) :=
  ⟨⟨_, rfl, by decide⟩, ⟨_, rfl, by decide⟩⟩
theorem witness_OnlyComputeCommandsAndClrWriteStatus :
    (∃ t, exec .b32dec demo = .next t) ∧ Instr.isCompute .b32dec = true ∧ (∃ t, exec .nop demo = .next t) ∧
      Instr.isCompute .nop = false ∧ Instr.nop ≠ .clr ∧ (∃ t, exec .clr demo = .next t) :=
  ⟨⟨_, rfl⟩, rfl, ⟨_, rfl⟩, rfl, by decide, ⟨_, rfl⟩⟩
theorem witness_RefusedCommandsChangeNothing :
    (∃ t, step (given 0x340000000000000000 demo) = .next t ∧ t.responses = [⟨0x03, 0⟩]) ∧
      (∃ t, step (given 0x210000000000000004 demo) = .next t ∧ t.responses = [⟨0x04, 0⟩]) ∧
      (∃ t, step (given 0x110000000000000041 full) = .next t ∧ t.responses = [⟨0x05, 0⟩]) :=
  ⟨⟨_, rfl, by decide⟩, ⟨_, rfl, by decide⟩, ⟨_, rfl, by decide⟩⟩
theorem witness_CommandsWriteOnlyWhatTheirRowMarks :
    (∃ t, exec .hmac demo = .next t) ∧ Column.code ∉ mayWrite .hmac := ⟨⟨_, rfl⟩, by decide⟩
theorem witness_CommandsDependOnlyOnWhatTheirRowMarks :
    let other : State := { demo with text := [], msg := [], digest := [], code := [], status := 0, responses := [⟨0, 0⟩] }
    demo ≠ other ∧ demo.params = other.params ∧ ∀ c ∈ mayRead .totp, agreeOn c demo other := by
  refine ⟨by decide, rfl, fun c h => ?_⟩
  simp only [mayRead, List.mem_cons, List.not_mem_nil, or_false] at h
  rcases h with rfl | rfl | rfl | rfl <;> rfl
theorem witness_HiddenStateIsZeroBetweenCommands :
    demo.hidden = .zero ∧ (∃ t, exec .totp demo = .next t) ∧
      (∃ t, exec .b32dec { demo with hidden := { Hidden.zero with dec := ⟨1, 3, [0x01]⟩ } } = .next t) ∧
      (∃ t, exec .hmac { demo with hidden := { Hidden.zero with hmac := ⟨[], []⟩ } } = .next t) :=
  ⟨rfl, ⟨_, rfl⟩, ⟨_, rfl⟩, ⟨_, rfl⟩⟩
theorem witness_RepeatedCommandsAreIdempotent :
    (∃ t, exec (.setstep 7) demo = .next t) ∧ (∃ t, exec (.rdd 3) demo = .next t) ∧ returnsValue (.rdd 3) = true ∧
      demo.tlen < demo.params.textMax ∧ demo.klen < demo.params.keyMax ∧ demo.mlen < demo.params.msgMax :=
  ⟨⟨_, rfl⟩, ⟨_, rfl⟩, rfl, by decide, by decide, by decide⟩
theorem witness_ResetStateIsLegal : Params.wellFormed ⟨32, 20, 8, true⟩ = true := by decide
theorem witness_EveryStepKeepsTheStateLegal :
    LegalState demo ∧ ∃ t, step demo = .next t := ⟨demo_legal, _, rfl⟩
theorem witness_EveryRunFromALegalStateIsSafe : LegalState demo := demo_legal

end Sys2Proof.Tests
end

section
/-! PROOFS. The rules a step rests on: which command a step runs, how long the units' results are, and what generation can answer. -/

namespace Sys2Proof.Machine

/-! ### What a step does with the oldest event -/

theorem step_of_no_event {s : State} (h : s.inputs = []) : step s = .next s := by
  simp [step, takeEvent, h]

theorem step_of_reset {s : State} {running : Option Word72} {rest : List PortEvent}
    (h : s.inputs = .reset running :: rest) : step s = .next (resetBlock { s with inputs := rest }) := by
  simp [step, takeEvent, h]

theorem step_of_command {s : State} {w : Word72} {rest : List PortEvent} {i : Instr}
    (h : s.inputs = .command w :: rest) (hw : decode w = some i) : step s = exec i { s with inputs := rest } := by
  simp [step, takeEvent, h, hw]

theorem step_of_illegal {s : State} {w : Word72} {rest : List PortEvent}
    (h : s.inputs = .command w :: rest) (hw : decode w = none) :
    step s = .next (illegalCommand { s with inputs := rest }) := by
  simp [step, takeEvent, h, hw]

/-! ### The length of a decode: every symbol brings 5 bits and every byte takes 8 (40_base32.md R96, R97) -/

/-- The bits the decoder holds: those of OUT and the CNT bits not yet emitted. -/
def DecoderRegs.bits (d : DecoderRegs) : Nat := 8 * d.out.length + d.cnt.toNat

theorem emitByte_bits (d : DecoderRegs) : (emitByte d).bits = d.bits := by
  by_cases h : 8 ≤ d.cnt.toNat
  · simp only [emitByte_of_full d h, DecoderRegs.bits, toNat_cnt_sub_eight d h, List.length_append, List.length_singleton]
    omega
  · rw [emitByte_of_short d (Nat.lt_of_not_le h)]

/-- A bound and no equation: the four bits of CNT wrap in registers that no decode reaches (40_base32.md R104). -/
theorem shiftIn_bits_le (d : DecoderRegs) (v : BitVec 5) : (shiftIn d v).bits ≤ d.bits + 5 := by
  have hcnt : (d.cnt + 5).toNat ≤ d.cnt.toNat + 5 := by
    rw [BitVec.toNat_add]; exact Nat.mod_le _ _
  simp only [DecoderRegs.bits, shiftIn_out, shiftIn_cnt]
  omega

theorem decodeChar_bits_le {d d' : DecoderRegs} {c : Byte} (h : decodeChar d c = some d') : d'.bits ≤ d.bits + 5 := by
  obtain ⟨-, e⟩ | ⟨-, -, e⟩ | ⟨-, v, -, e⟩ := decodeChar_spec d c <;> rw [e] at h
  · cases h; omega
  · cases h
  · cases h; rw [emitByte_bits]; exact shiftIn_bits_le d v

theorem decodeChars_bits_le (t : List Byte) :
    ∀ {d d' : DecoderRegs}, decodeChars d t = some d' → d'.bits ≤ d.bits + 5 * t.length := by
  induction t with
  | nil => intro d d' h; cases h; simp
  | cons c t ih =>
    intro d d' h
    rw [decodeChars_cons, Option.bind_eq_some_iff] at h
    obtain ⟨d₁, hc, ht⟩ := h
    have first := decodeChar_bits_le hc
    have others := ih ht
    rw [List.length_cons]
    omega

/-- A decode yields at most the whole bytes of 5 bits a character (40_base32.md R103). -/
theorem b32Decode_length_le {t bytes : List Byte} (h : b32Decode t = some bytes) : bytes.length ≤ 5 * t.length / 8 := by
  rw [b32Decode_eq, Option.map_eq_some_iff] at h
  obtain ⟨d, hd, rfl⟩ := h
  have hbits : 8 * d.out.length + d.cnt.toNat ≤ 0 + 5 * t.length := decodeChars_bits_le t hd
  omega

/-! ### The results of the hash units and of the pipeline -/

@[simp] theorem sha1_length (m : List Byte) : (sha1 m).length = 20 := rfl

@[simp] theorem hmacSha1_length (key message : List Byte) : (hmacSha1 key message).length = 20 := by
  rw [hmacSha1, hmacUnit_two_hashes, sha1_length]

@[simp] theorem decimalString_length (value width : Nat) : (decimalString value width).length = width := by
  simp [decimalString]

theorem decimalString_isDigit {value width : Nat} {c : Byte} (h : c ∈ decimalString value width) : isDigit c := by
  simp only [decimalString, List.mem_map] at h
  obtain ⟨i, -, rfl⟩ := h
  simp only [isDigit, BitVec.toNat_ofNat]
  omega

/-- The pipeline leaves zero registers at zero, whether it ends with a Code or with an error (42_totp.md R150). -/
theorem totpUnit_keeps_zero (reject : Bool) (key : List Byte) (now : Word64) (stepSecs digits : Word32) :
    (totpUnit reject .zero key now stepSecs digits).1 = .zero := by
  rw [totpUnit_hidden]
  cases checkOperands reject key stepSecs digits <;> rfl

/-- From zero registers, generation raises a check's error or writes DIGITS decimal digits to CODE, and does nothing else
(42_totp.md R140, R142, R149). -/
theorem generate_spec {s : State} (hz : s.hidden = .zero) :
    (∃ cause, cause ≠ .primitiveFailure ∧ generate s = raiseError s (.generation cause)) ∨
      (s.digits.toNat ≤ 10 ∧
        ∃ value, generate s = concludeOk { s with code := decimalString value s.digits.toNat }) := by
  have hkeep := totpUnit_keeps_zero s.params.emptyKeyReject s.key s.now s.stepSecs s.digits
  have failing {cause : GenCause}
      (hc : checkOperands s.params.emptyKeyReject s.key s.stepSecs s.digits = some cause) :
      generate s = raiseError s (.generation cause) := by
    simp only [generate, finishTotp, totpUnit, hc]
  obtain ⟨-, hc⟩ | ⟨-, -, hc⟩ | ⟨-, -, -, -, -, hc⟩ | ⟨-, -, hle, -, hc⟩ :=
    checkOperands_spec s.params.emptyKeyReject s.key s.stepSecs s.digits
  · exact .inl ⟨_, by decide, failing hc⟩
  · exact .inl ⟨_, by decide, failing hc⟩
  · exact .inl ⟨_, by decide, failing hc⟩
  · refine .inr ⟨hle, (pipeline .zero s.key s.now s.stepSecs s.digits).totp.cval.toNat, ?_⟩
    simp only [totpUnit, hc] at hkeep
    simp only [generate, finishTotp, totpUnit, hc, hz, hkeep]

end Sys2Proof.Machine
end

section
/-! PROOFS. The legal states: reset gives one, every shared operation keeps it, and so does every command and every step. -/

namespace Sys2Proof

open Sys2Proof.Machine

/-- A whole TEXT of symbols decodes into KEY (00_scope.md R9). -/
theorem Params.wellFormed_decode_fits {p : Params} (h : p.wellFormed = true) : 5 * p.textMax / 8 ≤ p.keyMax := by
  simp only [Params.wellFormed, Bool.and_eq_true, decide_eq_true_eq] at h
  obtain ⟨⟨⟨-, fits⟩, -⟩, -⟩ := h
  exact fits

theorem legalState_resetWith {p : Params} (hp : p.wellFormed = true) : LegalState (State.resetWith p) where
  params := hp
  text := Nat.zero_le _
  key := Nat.zero_le _
  msg := Nat.zero_le _
  digest := .inl rfl
  code := Nat.zero_le _
  codeDigits := by simp [State.resetWith]
  status := by simp [State.resetWith, legalStatus]
  hidden := rfl

namespace LegalState

variable {s : State} (h : LegalState s)
include h

/-! ### One rule per update of the state -/

theorem with_inputs (inputs : List PortEvent) : LegalState { s with inputs := inputs } := { h with }

theorem with_now (now : Word64) : LegalState { s with now := now } := { h with }

theorem with_stepSecs (secs : Word32) : LegalState { s with stepSecs := secs } := { h with }

theorem with_digits (digits : Word32) : LegalState { s with digits := digits } := { h with }

theorem with_key {bytes : List Byte} (hb : bytes.length ≤ s.params.keyMax) : LegalState { s with key := bytes } :=
  { h with key := hb }

theorem with_digest {bytes : List Byte} (hb : bytes.length = 20) : LegalState { s with digest := bytes } :=
  { h with digest := .inr hb }

theorem with_code {chars : List Byte} (hlen : chars.length ≤ 10) (hdig : ∀ c ∈ chars, isDigit c) :
    LegalState { s with code := chars } :=
  { h with code := hlen, codeDigits := hdig }

theorem with_code_empty : LegalState { s with code := [] } := h.with_code (Nat.zero_le _) (by simp)

theorem after_writeBuffer {b : Buffer} {bytes : List Byte} (hb : b ∈ [Buffer.text, .key, .msg])
    (hlen : bytes.length ≤ capacity s.params b) : LegalState (writeBuffer s b bytes) := by
  cases b with
  | text => exact { h with text := hlen }
  | key => exact h.with_key hlen
  | msg => exact { h with msg := hlen }
  | digest => simp at hb
  | code => simp at hb

theorem after_respond (st : Byte) (v : Word64) : LegalState (respond s st v) := { h with }

theorem after_conclude {st : Byte} (hst : st ∈ legalStatus) : LegalState (conclude s st) := { h with status := hst }

theorem after_concludeOk : LegalState (concludeOk s) := h.after_conclude (by decide)

theorem after_resetBlock : LegalState (resetBlock s) := { legalState_resetWith h.params with }

/-! ### The shared operations -/

theorem buffer_fits (b : Buffer) : (readBuffer s b).length ≤ capacity s.params b := by
  cases b with
  | text => exact h.text
  | key => exact h.key
  | msg => exact h.msg
  | digest =>
    obtain hd | hd := h.digest
    · exact hd.trans_le (Nat.zero_le 20)
    · exact hd.le
  | code => exact h.code

theorem after_emptyBuffer {b : Buffer} (hb : b ∈ [Buffer.text, .key, .msg]) : LegalState (emptyBuffer s b) :=
  (h.after_writeBuffer hb (Nat.zero_le _)).after_respond _ _

/-- A buffer that is not full and not over its capacity has room for the byte (20_memory.md R52). -/
theorem after_pushByte {b : Buffer} (hb : b ∈ [Buffer.text, .key, .msg]) (v : Byte) : LegalState (pushByte s b v) := by
  obtain ⟨-, e⟩ | ⟨hne, e⟩ := pushByte_spec s b v <;> rw [e]
  · exact h.after_respond _ _
  · refine (h.after_writeBuffer hb ?_).after_respond _ _
    rw [List.length_append, List.length_singleton]
    exact Nat.lt_of_le_of_ne (h.buffer_fits b) hne

theorem after_readIndexed (b : Buffer) (i : Word64) : LegalState (readIndexed s b i) := by
  obtain ⟨-, e⟩ | ⟨_, e⟩ := readIndexed_spec s b i <;> rw [e] <;> exact h.after_respond _ _

/-- PrimitiveFailure, which no command raises (41_hmac_sha1.md R125), is the one error whose byte STATUS cannot hold. -/
theorem after_raiseError {e : OperationError} (he : e ≠ .generation .primitiveFailure) :
    LegalState (raiseError s e) := by
  have noKey := h.with_key (bytes := []) (Nat.zero_le _)
  match e with
  | .invalidCharacter => exact noKey.after_conclude (by decide)
  | .generation .decodeFailed => exact noKey.with_code_empty.after_conclude (by decide)
  | .generation .stepZero => exact h.with_code_empty.after_conclude (by decide)
  | .generation .digitsRange => exact h.with_code_empty.after_conclude (by decide)
  | .generation .invalidSecret => exact h.with_code_empty.after_conclude (by decide)
  | .generation .primitiveFailure => exact absurd rfl he

/-! ### The compute commands -/

/-- Between commands the decoder's registers are zero, and a decode leaves them so (10_state.md R33; 40_base32.md R98). -/
theorem runDecoder_eq : runDecoder s = (s, b32Decode s.text) := by
  have hdec : { s.hidden with dec := .zero } = s.hidden := by rw [h.hidden]; rfl
  rw [runDecoder_spec, hdec]

theorem with_decoded_key {bytes : List Byte} (hd : b32Decode s.text = some bytes) :
    LegalState { s with key := bytes } :=
  h.with_key <| calc
    bytes.length ≤ 5 * s.text.length / 8 := b32Decode_length_le hd
    _ ≤ 5 * s.params.textMax / 8 := Nat.div_le_div_right (Nat.mul_le_mul_left 5 h.text)
    _ ≤ s.params.keyMax := Params.wellFormed_decode_fits h.params

theorem after_b32dec : LegalState (finishB32dec (runDecoder s)) := by
  rw [h.runDecoder_eq, finishB32dec]
  cases hd : b32Decode s.text with
  | some bytes => exact (h.with_decoded_key hd).after_concludeOk
  | none => exact h.after_raiseError (by decide)

theorem with_hmac_digest :
    LegalState { s with hidden := (hmacUnit s.hidden s.key s.msg).1, digest := (hmacUnit s.hidden s.key s.msg).2 } := by
  have hhid : { s.hidden with sha := .zero, hmac := .zero } = s.hidden := by rw [h.hidden]; rfl
  rw [hmacUnit_eq, hhid]
  exact h.with_digest (hmacSha1_length s.key s.msg)

theorem after_generate : LegalState (generate s) := by
  obtain ⟨cause, hc, e⟩ | ⟨hle, value, e⟩ := generate_spec h.hidden <;> rw [e]
  · exact h.after_raiseError (by simpa using hc)
  · refine (h.with_code ?_ fun c hc => decimalString_isDigit hc).after_concludeOk
    rwa [decimalString_length]

theorem after_totpt : LegalState (finishTotpt (runDecoder s)) := by
  rw [h.runDecoder_eq, finishTotpt]
  cases hd : b32Decode s.text with
  | some bytes => exact (h.with_decoded_key hd).after_generate
  | none => exact h.after_raiseError (by decide)

/-! ### Commands and steps -/

/-- Every command runs to a next state, and to a legal one. -/
theorem exec_next (i : Instr) : ∃ t, exec i s = .next t ∧ LegalState t := by
  cases i with
  | nop => exact ⟨_, rfl, h.after_respond _ _⟩
  | clr => exact ⟨_, rfl, h.after_resetBlock.after_respond _ _⟩
  | rdst => exact ⟨_, rfl, h.after_respond _ _⟩
  | clrt => exact ⟨_, rfl, h.after_emptyBuffer (by decide)⟩
  | pusht c => exact ⟨_, rfl, h.after_pushByte (by decide) c⟩
  | clrk => exact ⟨_, rfl, h.after_emptyBuffer (by decide)⟩
  | pushk b => exact ⟨_, rfl, h.after_pushByte (by decide) b⟩
  | clrm => exact ⟨_, rfl, h.after_emptyBuffer (by decide)⟩
  | pushm b => exact ⟨_, rfl, h.after_pushByte (by decide) b⟩
  | setnow v => exact ⟨_, rfl, (h.with_now v).after_respond _ _⟩
  | setstep v => exact ⟨_, rfl, (h.with_stepSecs v).after_respond _ _⟩
  | setdig v => exact ⟨_, rfl, (h.with_digits v).after_respond _ _⟩
  | rdklen => exact ⟨_, rfl, h.after_respond _ _⟩
  | rdk index => exact ⟨_, rfl, h.after_readIndexed .key index⟩
  | rddlen => exact ⟨_, rfl, h.after_respond _ _⟩
  | rdd index => exact ⟨_, rfl, h.after_readIndexed .digest index⟩
  | rdclen => exact ⟨_, rfl, h.after_respond _ _⟩
  | rdc index => exact ⟨_, rfl, h.after_readIndexed .code index⟩
  | b32dec => exact ⟨_, rfl, h.after_b32dec⟩
  | hmac => exact ⟨_, rfl, h.with_hmac_digest.after_concludeOk⟩
  | totp => exact ⟨_, rfl, h.after_generate⟩
  | totpt => exact ⟨_, rfl, h.after_totpt⟩

/-- Every step goes to a next state, and to a legal one, whatever was presented. -/
theorem step_next : ∃ t, step s = .next t ∧ LegalState t := by
  match hin : s.inputs with
  | [] => exact ⟨s, step_of_no_event hin, h⟩
  | .reset _ :: rest => exact ⟨_, step_of_reset hin, (h.with_inputs rest).after_resetBlock⟩
  | .command w :: rest =>
    cases hw : decode w with
    | some i => rw [step_of_command hin hw]; exact (h.with_inputs rest).exec_next i
    | none => exact ⟨_, step_of_illegal hin hw, (h.with_inputs rest).after_respond _ _⟩

end LegalState

/-! ### The obligations of 00_scope.md -/

/-- Settles O47: a step from a legal state has one outcome, and `LegalState.step_next` says it is a legal state. -/
theorem everyStepKeepsTheStateLegal : Obligations.EveryStepKeepsTheStateLegal := by
  intro s t hs hst
  obtain ⟨t', hst', ht'⟩ := hs.step_next
  rw [hst, Host.Outcome.next.injEq] at hst'
  exact hst' ▸ ht'

/-- Settles O6: the step takes the oldest event and decodes its word; that the command fits its word is not needed. -/
theorem stepRunsTheDecodedCommand : Obligations.StepRunsTheDecodedCommand := by
  intro s w rest i hin hw _
  exact step_of_command hin hw

/-- Settles O46: the parameters of `State.reset` meet R9 like any others. -/
theorem resetStateIsLegal : Obligations.ResetStateIsLegal :=
  ⟨legalState_resetWith (by decide), fun _ => legalState_resetWith⟩

end Sys2Proof
end

section
/-! PROOFS. How a command ends: each shared operation and each compute command as one response to one update of the state, whichever way it
goes. What a command writes, what it depends on and what it leaves in the hidden registers are all read off these equations. -/

namespace Sys2Proof.Machine

theorem writeBuffer_readBuffer (s : State) (b : Buffer) : writeBuffer s b (readBuffer s b) = s := by
  cases b <;> rfl

/-- A push that is refused writes back the bytes it found (43_host_commands.md R174, R176, R178). -/
theorem pushByte_eq (s : State) (b : Buffer) (v : Byte) :
    pushByte s b v =
      respond (writeBuffer s b ((appendByte (capacity s.params b) (readBuffer s b) v).getD (readBuffer s b)))
        ((appendByte (capacity s.params b) (readBuffer s b) v).elim 0x05 fun _ => 0x00) 0 := by
  unfold pushByte
  cases appendByte (capacity s.params b) (readBuffer s b) v with
  | none => simp [writeBuffer_readBuffer, protocolByte_values]
  | some bytes => simp

/-- An indexed read changes nothing, whether it is refused or not (43_host_commands.md R183, R185, R187). -/
theorem readIndexed_eq (s : State) (b : Buffer) (i : Word64) :
    readIndexed s b i =
      respond s ((indexedByte (readBuffer s b) i).elim 0x04 fun _ => 0x00)
        ((indexedByte (readBuffer s b) i).elim 0 byteValue) := by
  unfold readIndexed
  cases indexedByte (readBuffer s b) i with
  | none => simp [protocolByte_values]
  | some v => simp

/-- B32DEC writes KEY, with the decoded bytes or with none (40_base32.md R90; 60_exceptions.md R204). -/
theorem exec_b32dec (s : State) :
    exec .b32dec s =
      .next (conclude { s with hidden := { s.hidden with dec := .zero }, key := (b32Decode s.text).getD [] }
        ((b32Decode s.text).elim 0x01 fun _ => 0x00)) := by
  rw [exec, execB32dec, runDecoder_spec, finishB32dec]
  cases b32Decode s.text <;> simp

/-- HMAC writes DIGEST (41_hmac_sha1.md R110). -/
theorem exec_hmac (s : State) :
    exec .hmac s =
      .next (conclude { s with hidden := { s.hidden with sha := .zero, hmac := .zero }, digest := hmacSha1 s.key s.msg }
        0x00) := by
  rw [exec, execHmac, hmacUnit_eq, concludeOk_eq, okByte_eq]

/-- The byte STATUS and RSTAT take from what a generation gave (60_exceptions.md R200, R202). -/
def generationStatus : Except GenCause (List Byte) → Byte
  | .ok _ => 0x00
  | .error cause => operationByte (.generation cause)

/-- The characters CODE takes from what a generation gave: none after an error (60_exceptions.md R205). -/
def generationCode : Except GenCause (List Byte) → List Byte
  | .ok chars => chars
  | .error _ => []

/-- Only a decode raises DecodeFailed; the checks of 42_totp.md R142 do not. -/
theorem checkOperands_ne_decodeFailed (reject : Bool) (key : List Byte) (stepSecs digits : Word32) :
    checkOperands reject key stepSecs digits ≠ some .decodeFailed := by
  obtain ⟨-, e⟩ | ⟨-, -, e⟩ | ⟨-, -, -, -, -, e⟩ | ⟨-, -, -, -, e⟩ := checkOperands_spec reject key stepSecs digits <;>
    rw [e] <;> decide

theorem genTotp_ne_decodeFailed (reject : Bool) (key : List Byte) (now : Word64) (stepSecs digits : Word32) :
    genTotp reject key now stepSecs digits ≠ .error .decodeFailed := by
  have hc := checkOperands_ne_decodeFailed reject key stepSecs digits
  rw [genTotp, totpUnit]
  cases h : checkOperands reject key stepSecs digits with
  | some cause =>
    rintro ⟨⟩
    exact hc h
  | none => exact nofun

/-- An error of the operand checks empties CODE alone (60_exceptions.md R205). -/
theorem raiseError_generation {cause : GenCause} (h : cause ≠ .decodeFailed) (s : State) :
    raiseError s (.generation cause) = conclude { s with code := [] } (operationByte (.generation cause)) := by
  cases cause with
  | decodeFailed => exact absurd rfl h
  | stepZero | digitsRange | invalidSecret | primitiveFailure => rfl

/-- TOTP writes CODE, with the Code or with nothing (42_totp.md R140; 60_exceptions.md R205). -/
theorem exec_totp (s : State) :
    exec .totp s =
      .next (conclude { s with
          hidden := (totpUnit s.params.emptyKeyReject s.hidden s.key s.now s.stepSecs s.digits).1
          code := generationCode (genTotp s.params.emptyKeyReject s.key s.now s.stepSecs s.digits) }
        (generationStatus (genTotp s.params.emptyKeyReject s.key s.now s.stepSecs s.digits))) := by
  rw [exec, execTotp, generate, finishTotp, totpUnit_result]
  cases h : genTotp s.params.emptyKeyReject s.key s.now s.stepSecs s.digits with
  | ok chars => simp [generationCode, generationStatus]
  | error cause =>
    have hc : cause ≠ .decodeFailed := by
      rintro rfl
      exact genTotp_ne_decodeFailed _ _ _ _ _ h
    exact congrArg _ (raiseError_generation hc _)

/-- What TOTPT generates from a text: GenTotp of its decoded key, or DecodeFailed (42_totp.md R141). -/
def genTotpt (reject : Bool) (text : List Byte) (now : Word64) (stepSecs digits : Word32) : Except GenCause (List Byte) :=
  (b32Decode text).elim (.error .decodeFailed) fun key => genTotp reject key now stepSecs digits

/-- The hidden registers TOTPT leaves: the decoder's at zero, then the pipeline's if the text decodes (42_totp.md R141, R150). -/
def totptHidden (reject : Bool) (h : Hidden) (text : List Byte) (now : Word64) (stepSecs digits : Word32) : Hidden :=
  (b32Decode text).elim { h with dec := .zero } fun key =>
    (totpUnit reject { h with dec := .zero } key now stepSecs digits).1

/-- TOTPT writes KEY and CODE, both empty when the text does not decode (42_totp.md R141; 60_exceptions.md R205). -/
theorem exec_totpt (s : State) :
    exec .totpt s =
      .next (conclude { s with
          hidden := totptHidden s.params.emptyKeyReject s.hidden s.text s.now s.stepSecs s.digits
          key := (b32Decode s.text).getD []
          code := generationCode (genTotpt s.params.emptyKeyReject s.text s.now s.stepSecs s.digits) }
        (generationStatus (genTotpt s.params.emptyKeyReject s.text s.now s.stepSecs s.digits))) := by
  rw [exec, execTotpt, runDecoder_spec, finishTotpt, genTotpt, totptHidden]
  cases b32Decode s.text with
  | some key => exact exec_totp { s with hidden := { s.hidden with dec := .zero }, key := key }
  | none => rfl

end Sys2Proof.Machine
end

section
/-! PROOFS. 10_state.md R35: the reset values. -/

namespace Sys2Proof

open Sys2Proof.Machine

theorem atReset_resetWith (p : Params) : AtReset (State.resetWith p) where
  now := rfl
  stepSecs := rfl
  digits := rfl
  status := rfl
  text := ⟨rfl, rfl⟩
  key := ⟨rfl, rfl⟩
  msg := ⟨rfl, rfl⟩
  digest := ⟨rfl, rfl⟩
  code := ⟨rfl, rfl⟩
  dec := rfl
  sha := rfl
  hmac := rfl
  totp := rfl
  sequencer := rfl

/-- The port and the parameters are no registers of R35. -/
theorem atReset_resetBlock (s : State) : AtReset (resetBlock s) := { atReset_resetWith s.params with }

theorem AtReset.after_respond {s : State} (h : AtReset s) (st : Byte) (v : Word64) : AtReset (respond s st v) := { h with }

/-- Settles O10: CLR is the reset of the block and a response. -/
theorem resetAndClrGiveTheResetValues : Obligations.ResetAndClrGiveTheResetValues :=
  ⟨atReset_resetWith _, fun s => ⟨_, rfl, (atReset_resetBlock s).after_respond _ _⟩⟩

end Sys2Proof
end

section
/-! PROOFS. 10_state.md R27, the `W` marks: each update of the state writes its own column, and a command is a chain of such updates. -/

namespace Sys2Proof

open Sys2Proof.Machine

/-- The column of a buffer (10_state.md R25, R27). -/
def bufferColumn : Buffer → Column
  | .text => .text
  | .key => .key
  | .msg => .msg
  | .digest => .digest
  | .code => .code

theorem agreeOn_bufferColumn (b : Buffer) (s t : State) :
    agreeOn (bufferColumn b) s t ↔ readBuffer s b = readBuffer t b := by
  cases b <;> rfl

theorem agreeOn_trans {c : Column} {s t u : State} (hst : agreeOn c s t) (htu : agreeOn c t u) : agreeOn c s u := by
  cases c <;> exact Eq.trans hst htu

/-- A buffer's own column is the only one a write to it can change (20_memory.md R50). -/
theorem agreeOn_writeBuffer (s : State) {b : Buffer} (bytes : List Byte) {c : Column} (hne : c ≠ bufferColumn b) :
    agreeOn c s (writeBuffer s b bytes) := by
  have other (b' : Buffer) (hb : bufferColumn b' ≠ bufferColumn b) :
      agreeOn (bufferColumn b') s (writeBuffer s b bytes) := by
    rw [agreeOn_bufferColumn, readBuffer_writeBuffer, if_neg fun e => hb (congrArg bufferColumn e.symm)]
  cases c with
  | text => exact other .text hne
  | key => exact other .key hne
  | msg => exact other .msg hne
  | digest => exact other .digest hne
  | code => exact other .code hne
  | now | step | digits | status => cases b <;> rfl

/-- `t` differs from `s` at most in the given columns, the hidden registers and the responses. -/
def WritesOnly (cols : List Column) (s t : State) : Prop :=
  (∀ c, c ∉ cols → agreeOn c s t) ∧ t.params = s.params ∧ t.sequencer = s.sequencer ∧ t.inputs = s.inputs

namespace WritesOnly

theorem refl (cols : List Column) (s : State) : WritesOnly cols s s :=
  ⟨fun c _ => by cases c <;> rfl, rfl, rfl, rfl⟩

variable {cols : List Column} {s t : State} (h : WritesOnly cols s t)
include h

theorem trans {u : State} (h' : WritesOnly cols t u) : WritesOnly cols s u := by
  obtain ⟨hcols, hparams, hseq, hin⟩ := h
  obtain ⟨hcols', hparams', hseq', hin'⟩ := h'
  exact ⟨fun c hc => agreeOn_trans (hcols c hc) (hcols' c hc),
    hparams'.trans hparams, hseq'.trans hseq, hin'.trans hin⟩

/-- A next state that differs in one column, and that column may be written. -/
theorem update {u : State} {d : Column} (hd : d ∈ cols) (hu : ∀ c, c ≠ d → agreeOn c t u)
    (hports : u.params = t.params ∧ u.sequencer = t.sequencer ∧ u.inputs = t.inputs) : WritesOnly cols s u :=
  h.trans ⟨fun c hc => hu c (ne_of_mem_of_not_mem hd hc).symm, hports⟩

theorem with_hidden (x : Hidden) : WritesOnly cols s { t with hidden := x } :=
  h.trans ⟨fun c _ => by cases c <;> rfl, rfl, rfl, rfl⟩

theorem after_respond (st : Byte) (v : Word64) : WritesOnly cols s (respond t st v) :=
  h.trans ⟨fun c _ => by cases c <;> rfl, rfl, rfl, rfl⟩

theorem with_now (hc : .now ∈ cols) (v : Word64) : WritesOnly cols s { t with now := v } :=
  h.update hc (fun c hne => by cases c with | now => exact absurd rfl hne | _ => rfl) ⟨rfl, rfl, rfl⟩

theorem with_stepSecs (hc : .step ∈ cols) (v : Word32) : WritesOnly cols s { t with stepSecs := v } :=
  h.update hc (fun c hne => by cases c with | step => exact absurd rfl hne | _ => rfl) ⟨rfl, rfl, rfl⟩

theorem with_digits (hc : .digits ∈ cols) (v : Word32) : WritesOnly cols s { t with digits := v } :=
  h.update hc (fun c hne => by cases c with | digits => exact absurd rfl hne | _ => rfl) ⟨rfl, rfl, rfl⟩

theorem after_conclude (hc : .status ∈ cols) (st : Byte) : WritesOnly cols s (conclude t st) :=
  h.update hc (fun c hne => by cases c with | status => exact absurd rfl hne | _ => rfl) ⟨rfl, rfl, rfl⟩

theorem after_writeBuffer {b : Buffer} (hb : bufferColumn b ∈ cols) (bytes : List Byte) :
    WritesOnly cols s (writeBuffer t b bytes) :=
  h.update hb (fun _ => agreeOn_writeBuffer t bytes) (by cases b <;> exact ⟨rfl, rfl, rfl⟩)

theorem with_key (hc : .key ∈ cols) (bytes : List Byte) : WritesOnly cols s { t with key := bytes } :=
  h.after_writeBuffer (b := .key) hc bytes

theorem with_digest (hc : .digest ∈ cols) (bytes : List Byte) : WritesOnly cols s { t with digest := bytes } :=
  h.after_writeBuffer (b := .digest) hc bytes

theorem with_code (hc : .code ∈ cols) (bytes : List Byte) : WritesOnly cols s { t with code := bytes } :=
  h.after_writeBuffer (b := .code) hc bytes

theorem after_emptyBuffer {b : Buffer} (hb : bufferColumn b ∈ cols) : WritesOnly cols s (emptyBuffer t b) :=
  (h.after_writeBuffer hb []).after_respond _ _

theorem after_pushByte {b : Buffer} (hb : bufferColumn b ∈ cols) (v : Byte) : WritesOnly cols s (pushByte t b v) := by
  rw [pushByte_eq]
  exact (h.after_writeBuffer hb _).after_respond _ _

theorem after_readIndexed (b : Buffer) (i : Word64) : WritesOnly cols s (readIndexed t b i) := by
  rw [readIndexed_eq]
  exact h.after_respond _ _

end WritesOnly

/-- The row of CLR marks every column. -/
theorem mem_mayWrite_clr (c : Column) : c ∈ mayWrite .clr := by cases c <;> decide

theorem writesOnly_resetBlock (s : State) : WritesOnly (mayWrite .clr) s (resetBlock s) :=
  ⟨fun c hc => absurd (mem_mayWrite_clr c) hc, rfl, rfl, rfl⟩

/-- Every command runs to a next state, and writes only what its row marks. -/
theorem exec_writesOnly (i : Instr) (s : State) : ∃ t, exec i s = .next t ∧ WritesOnly (mayWrite i) s t := by
  have unchanged : WritesOnly (mayWrite i) s s := .refl _ s
  cases i with
  | nop => exact ⟨_, rfl, unchanged.after_respond _ _⟩
  | clr => exact ⟨_, rfl, (writesOnly_resetBlock s).after_respond _ _⟩
  | rdst => exact ⟨_, rfl, unchanged.after_respond _ _⟩
  | clrt => exact ⟨_, rfl, unchanged.after_emptyBuffer (by decide)⟩
  | pusht c => exact ⟨_, rfl, unchanged.after_pushByte (.head _) c⟩
  | clrk => exact ⟨_, rfl, unchanged.after_emptyBuffer (by decide)⟩
  | pushk b => exact ⟨_, rfl, unchanged.after_pushByte (.head _) b⟩
  | clrm => exact ⟨_, rfl, unchanged.after_emptyBuffer (by decide)⟩
  | pushm b => exact ⟨_, rfl, unchanged.after_pushByte (.head _) b⟩
  | setnow v => exact ⟨_, rfl, (unchanged.with_now (.head _) v).after_respond _ _⟩
  | setstep v => exact ⟨_, rfl, (unchanged.with_stepSecs (.head _) v).after_respond _ _⟩
  | setdig v => exact ⟨_, rfl, (unchanged.with_digits (.head _) v).after_respond _ _⟩
  | rdklen => exact ⟨_, rfl, unchanged.after_respond _ _⟩
  | rdk index => exact ⟨_, rfl, unchanged.after_readIndexed .key index⟩
  | rddlen => exact ⟨_, rfl, unchanged.after_respond _ _⟩
  | rdd index => exact ⟨_, rfl, unchanged.after_readIndexed .digest index⟩
  | rdclen => exact ⟨_, rfl, unchanged.after_respond _ _⟩
  | rdc index => exact ⟨_, rfl, unchanged.after_readIndexed .code index⟩
  | b32dec =>
    exact ⟨_, exec_b32dec s, ((unchanged.with_hidden _).with_key (by decide) _).after_conclude (by decide) _⟩
  | hmac =>
    exact ⟨_, exec_hmac s, ((unchanged.with_hidden _).with_digest (by decide) _).after_conclude (by decide) _⟩
  | totp =>
    exact ⟨_, exec_totp s, ((unchanged.with_hidden _).with_code (by decide) _).after_conclude (by decide) _⟩
  | totpt =>
    have decoded := unchanged.with_hidden (totptHidden s.params.emptyKeyReject s.hidden s.text s.now s.stepSecs s.digits)
      |>.with_key (by decide) ((b32Decode s.text).getD [])
    exact ⟨_, exec_totpt s, (decoded.with_code (by decide) _).after_conclude (by decide) _⟩

/-- Settles O42: the one outcome of a command is the state of `exec_writesOnly`. -/
theorem commandsWriteOnlyWhatTheirRowMarks : Obligations.CommandsWriteOnlyWhatTheirRowMarks := by
  intro i s t ht
  obtain ⟨t', ht', hw⟩ := exec_writesOnly i s
  rw [ht, Host.Outcome.next.injEq] at ht'
  exact ht' ▸ hw

end Sys2Proof
end

section
/-! PROOFS. 10_state.md R27, the `R` and `ret` marks: two states that agree on what a command reads are answered alike and agree afterwards
on what it writes. -/

namespace Sys2Proof

open Sys2Proof.Machine

/-- `t` after `s` and `t'` after `s'`: one response each, the same, and the given columns agree. -/
def AnsweredAlike (cols : List Column) (s s' t t' : State) : Prop :=
  ∃ r, t.responses = s.responses ++ [r] ∧ t'.responses = s'.responses ++ [r] ∧ ∀ c ∈ cols, agreeOn c t t'

section

variable {cols : List Column} {s s' u u' : State}

theorem answeredAlike_respond (hr : u.responses = s.responses) (hr' : u'.responses = s'.responses)
    (hcols : ∀ c ∈ cols, agreeOn c u u') (st : Byte) (v : Word64) :
    AnsweredAlike cols s s' (respond u st v) (respond u' st v) := by
  refine ⟨⟨st, v⟩, by simp [hr], by simp [hr'], fun c hc => ?_⟩
  have hcol := hcols c hc
  cases c <;> exact hcol

/-- STATUS agrees after a conclusion whatever it held, so only the columns beside it are asked for. -/
theorem answeredAlike_conclude (hr : u.responses = s.responses) (hr' : u'.responses = s'.responses)
    (hcols : ∀ c ∈ cols, c ≠ .status → agreeOn c u u') (st : Byte) :
    AnsweredAlike cols s s' (conclude u st) (conclude u' st) := by
  refine answeredAlike_respond (u := { u with status := st }) (u' := { u' with status := st }) hr hr' (fun c hc => ?_) st 0
  have hcol := hcols c hc
  cases c with
  | status => rfl
  | text | key | msg | digest | code | now | step | digits => exact hcol (by decide)

/-- An answer that writes nothing. -/
theorem answeredAlike_answer (st : Byte) (v : Word64) : AnsweredAlike [] s s' (respond s st v) (respond s' st v) :=
  answeredAlike_respond rfl rfl (by simp) st v

theorem answeredAlike_writeBuffer (b : Buffer) (bytes : List Byte) (st : Byte) (v : Word64) :
    AnsweredAlike [bufferColumn b] s s' (respond (writeBuffer s b bytes) st v) (respond (writeBuffer s' b bytes) st v) := by
  refine answeredAlike_respond (by cases b <;> rfl) (by cases b <;> rfl) (fun c hc => ?_) st v
  rw [List.mem_singleton.mp hc, agreeOn_bufferColumn, readBuffer_writeBuffer, readBuffer_writeBuffer, if_pos rfl, if_pos rfl]

theorem answeredAlike_pushByte {b : Buffer} (hp : s.params = s'.params) (hb : readBuffer s b = readBuffer s' b) (v : Byte) :
    AnsweredAlike [bufferColumn b] s s' (pushByte s b v) (pushByte s' b v) := by
  rw [pushByte_eq, pushByte_eq, hp, hb]
  exact answeredAlike_writeBuffer b _ _ _

theorem answeredAlike_readLength {b : Buffer} (hb : readBuffer s b = readBuffer s' b) :
    AnsweredAlike [] s s' (readLength s b) (readLength s' b) := by
  rw [readLength, readLength, hb]
  exact answeredAlike_answer _ _

theorem answeredAlike_readIndexed {b : Buffer} (hb : readBuffer s b = readBuffer s' b) (i : Word64) :
    AnsweredAlike [] s s' (readIndexed s b i) (readIndexed s' b i) := by
  rw [readIndexed_eq, readIndexed_eq, hb]
  exact answeredAlike_answer _ _

end

/-- Every command runs to a next state from both states, and is answered alike. -/
theorem exec_answeredAlike (i : Instr) {s s' : State} (hp : s.params = s'.params) (h : ∀ c ∈ mayRead i, agreeOn c s s') :
    ∃ t t', exec i s = .next t ∧ exec i s' = .next t' ∧ AnsweredAlike (mayWrite i) s s' t t' := by
  cases i with
  | nop => exact ⟨_, _, rfl, rfl, answeredAlike_answer _ _⟩
  | clr =>
    refine ⟨_, _, rfl, rfl, answeredAlike_respond rfl rfl (fun c _ => ?_) _ _⟩
    cases c <;> rfl
  | rdst =>
    have hstatus : s.status = s'.status := h .status (.head _)
    refine ⟨_, _, rfl, rfl, ?_⟩
    rw [hstatus]
    exact answeredAlike_answer _ _
  | clrt => exact ⟨_, _, rfl, rfl, answeredAlike_writeBuffer .text [] _ _⟩
  | pusht c => exact ⟨_, _, rfl, rfl, answeredAlike_pushByte (b := .text) hp (h .text (.head _)) c⟩
  | clrk => exact ⟨_, _, rfl, rfl, answeredAlike_writeBuffer .key [] _ _⟩
  | pushk b => exact ⟨_, _, rfl, rfl, answeredAlike_pushByte (b := .key) hp (h .key (.head _)) b⟩
  | clrm => exact ⟨_, _, rfl, rfl, answeredAlike_writeBuffer .msg [] _ _⟩
  | pushm b => exact ⟨_, _, rfl, rfl, answeredAlike_pushByte (b := .msg) hp (h .msg (.head _)) b⟩
  | setnow v => exact ⟨_, _, rfl, rfl, answeredAlike_respond rfl rfl (by simp [mayWrite, agreeOn]) _ _⟩
  | setstep v => exact ⟨_, _, rfl, rfl, answeredAlike_respond rfl rfl (by simp [mayWrite, agreeOn]) _ _⟩
  | setdig v => exact ⟨_, _, rfl, rfl, answeredAlike_respond rfl rfl (by simp [mayWrite, agreeOn]) _ _⟩
  | rdklen => exact ⟨_, _, rfl, rfl, answeredAlike_readLength (b := .key) (h .key (.head _))⟩
  | rdk index => exact ⟨_, _, rfl, rfl, answeredAlike_readIndexed (b := .key) (h .key (.head _)) index⟩
  | rddlen => exact ⟨_, _, rfl, rfl, answeredAlike_readLength (b := .digest) (h .digest (.head _))⟩
  | rdd index => exact ⟨_, _, rfl, rfl, answeredAlike_readIndexed (b := .digest) (h .digest (.head _)) index⟩
  | rdclen => exact ⟨_, _, rfl, rfl, answeredAlike_readLength (b := .code) (h .code (.head _))⟩
  | rdc index => exact ⟨_, _, rfl, rfl, answeredAlike_readIndexed (b := .code) (h .code (.head _)) index⟩
  | b32dec =>
    have htext : s.text = s'.text := h .text (.head _)
    refine ⟨_, _, exec_b32dec s, exec_b32dec s', ?_⟩
    rw [htext]
    exact answeredAlike_conclude rfl rfl (by simp [mayWrite, agreeOn]) _
  | hmac =>
    have hkey : s.key = s'.key := h .key (by decide)
    have hmsg : s.msg = s'.msg := h .msg (by decide)
    exact ⟨_, _, exec_hmac s, exec_hmac s', answeredAlike_conclude rfl rfl (by simp [mayWrite, agreeOn, hkey, hmsg]) _⟩
  | totp =>
    have hkey : s.key = s'.key := h .key (by decide)
    have hnow : s.now = s'.now := h .now (by decide)
    have hstep : s.stepSecs = s'.stepSecs := h .step (by decide)
    have hdig : s.digits = s'.digits := h .digits (by decide)
    refine ⟨_, _, exec_totp s, exec_totp s', ?_⟩
    rw [hp, hkey, hnow, hstep, hdig]
    exact answeredAlike_conclude rfl rfl (by simp [mayWrite, agreeOn]) _
  | totpt =>
    have htext : s.text = s'.text := h .text (by decide)
    have hnow : s.now = s'.now := h .now (by decide)
    have hstep : s.stepSecs = s'.stepSecs := h .step (by decide)
    have hdig : s.digits = s'.digits := h .digits (by decide)
    refine ⟨_, _, exec_totpt s, exec_totpt s', ?_⟩
    rw [hp, htext, hnow, hstep, hdig]
    exact answeredAlike_conclude rfl rfl (by simp [mayWrite, agreeOn]) _

/-- Settles O43: the two outcomes and the response are those of `exec_answeredAlike`. -/
theorem commandsDependOnlyOnWhatTheirRowMarks : Obligations.CommandsDependOnlyOnWhatTheirRowMarks := by
  intro i s s' hp h
  obtain ⟨t, t', ht, ht', r, hr, hr', hcols⟩ := exec_answeredAlike i hp h
  exact ⟨t, t', r, ht, ht', hr, hr', hcols⟩

end Sys2Proof
end

section
/-! PROOFS. 10_state.md R33: what a command leaves in the hidden registers is a function of what it found there and of its operands, and
nothing else it leaves depends on them. -/

namespace Sys2Proof

open Sys2Proof.Machine

/-- The hidden registers `i` leaves when it finds `h` in them and its operands in `s`: a unit that runs clears its own
(40_base32.md R98; 41_hmac_sha1.md R120, R122; 42_totp.md R150), CLR clears all, and the other commands touch none. -/
def hiddenAfter (i : Instr) (s : State) (h : Hidden) : Hidden :=
  match i with
  | .clr => .zero
  | .b32dec => { h with dec := .zero }
  | .hmac => { h with sha := .zero, hmac := .zero }
  | .totp => (totpUnit s.params.emptyKeyReject h s.key s.now s.stepSecs s.digits).1
  | .totpt => totptHidden s.params.emptyKeyReject h s.text s.now s.stepSecs s.digits
  | _ => h

theorem pushByte_with_hidden (s : State) (b : Buffer) (v : Byte) (h : Hidden) :
    pushByte { s with hidden := h } b v = { pushByte s b v with hidden := h } := by
  rw [pushByte_eq, pushByte_eq]
  cases b <;> rfl

theorem readIndexed_with_hidden (s : State) (b : Buffer) (i : Word64) (h : Hidden) :
    readIndexed { s with hidden := h } b i = { readIndexed s b i with hidden := h } := by
  rw [readIndexed_eq, readIndexed_eq]
  cases b <;> rfl

/-- A command run on other hidden registers differs in the hidden registers alone. -/
theorem exec_with_hidden (i : Instr) (s : State) :
    ∃ t, exec i s = .next t ∧ ∀ h, exec i { s with hidden := h } = .next { t with hidden := hiddenAfter i s h } := by
  cases i with
  | nop | clr | rdst | clrt | clrk | clrm | setnow | setstep | setdig | rdklen | rddlen | rdclen =>
    exact ⟨_, rfl, fun _ => rfl⟩
  | pusht c => exact ⟨_, rfl, fun h => congrArg _ (pushByte_with_hidden s .text c h)⟩
  | pushk b => exact ⟨_, rfl, fun h => congrArg _ (pushByte_with_hidden s .key b h)⟩
  | pushm b => exact ⟨_, rfl, fun h => congrArg _ (pushByte_with_hidden s .msg b h)⟩
  | rdk index => exact ⟨_, rfl, fun h => congrArg _ (readIndexed_with_hidden s .key index h)⟩
  | rdd index => exact ⟨_, rfl, fun h => congrArg _ (readIndexed_with_hidden s .digest index h)⟩
  | rdc index => exact ⟨_, rfl, fun h => congrArg _ (readIndexed_with_hidden s .code index h)⟩
  | b32dec => exact ⟨_, exec_b32dec s, fun h => exec_b32dec { s with hidden := h }⟩
  | hmac => exact ⟨_, exec_hmac s, fun h => exec_hmac { s with hidden := h }⟩
  | totp => exact ⟨_, exec_totp s, fun h => exec_totp { s with hidden := h }⟩
  | totpt => exact ⟨_, exec_totpt s, fun h => exec_totpt { s with hidden := h }⟩

/-- The case of `exec_with_hidden` in which the registers are those the command finds. -/
theorem hidden_of_exec {i : Instr} {s t : State} (ht : exec i s = .next t) : t.hidden = hiddenAfter i s s.hidden := by
  obtain ⟨t', ht', hh⟩ := exec_with_hidden i s
  have same : t = { t' with hidden := hiddenAfter i s s.hidden } := Host.Outcome.next.inj (ht.symm.trans (hh s.hidden))
  rw [same]

theorem hiddenAfter_zero (i : Instr) (s : State) : hiddenAfter i s .zero = .zero := by
  cases i with
  | totp => exact totpUnit_keeps_zero _ _ _ _ _
  | totpt =>
    rw [hiddenAfter, totptHidden]
    cases b32Decode s.text with
    | none => rfl
    | some key => exact totpUnit_keeps_zero _ _ _ _ _
  | _ => rfl

/-- Settles O44: the registers a command leaves are `hiddenAfter`, which keeps zero and clears the units that ran. -/
theorem hiddenStateIsZeroBetweenCommands : Obligations.HiddenStateIsZeroBetweenCommands := by
  refine ⟨fun i s t hz ht => ?_, fun s t ht => ?_, fun s t ht => ?_, fun i s h => ?_⟩
  · rw [hidden_of_exec ht, hz, hiddenAfter_zero]
  · rw [hidden_of_exec ht, hiddenAfter]
  · rw [hidden_of_exec ht]
    exact ⟨rfl, rfl⟩
  · obtain ⟨t, ht, hh⟩ := exec_with_hidden i s
    exact ⟨t, _, ht, hh h⟩

end Sys2Proof
end

section
/-! PROOFS. 20_memory.md R56: a command that reads no column it writes does the same again on the state it left, since it finds there all
that it depends on (10_state.md R27). The idempotent commands of R56 are of this kind; a push reads the buffer it lengthens. -/

namespace Sys2Proof

open Sys2Proof.Machine

/-! ### A command that finds what it depends on as it was -/

/-- The hidden registers a command leaves depend on no column its row does not mark as read. -/
theorem hiddenAfter_of_agreeOn {i : Instr} {s s' : State} (hp : s.params = s'.params)
    (hread : ∀ c ∈ mayRead i, agreeOn c s s') (h : Hidden) : hiddenAfter i s h = hiddenAfter i s' h := by
  cases i with
  | totp =>
    have hkey : s.key = s'.key := hread .key (by decide)
    have hnow : s.now = s'.now := hread .now (by decide)
    have hstep : s.stepSecs = s'.stepSecs := hread .step (by decide)
    have hdig : s.digits = s'.digits := hread .digits (by decide)
    simp only [hiddenAfter, hp, hkey, hnow, hstep, hdig]
  | totpt =>
    have htext : s.text = s'.text := hread .text (by decide)
    have hnow : s.now = s'.now := hread .now (by decide)
    have hstep : s.stepSecs = s'.stepSecs := hread .step (by decide)
    have hdig : s.digits = s'.digits := hread .digits (by decide)
    simp only [hiddenAfter, hp, htext, hnow, hstep, hdig]
  | _ => rfl

/-- A unit that runs again on the same operands clears what it has cleared, or ends with the same error and clears nothing. -/
theorem hiddenAfter_hiddenAfter (i : Instr) (s : State) (h : Hidden) :
    hiddenAfter i s (hiddenAfter i s h) = hiddenAfter i s h := by
  cases i with
  | totp =>
    simp only [hiddenAfter, totpUnit_hidden]
    cases checkOperands s.params.emptyKeyReject s.key s.stepSecs s.digits <;> rfl
  | totpt =>
    simp only [hiddenAfter, totptHidden]
    cases b32Decode s.text with
    | none => rfl
    | some key =>
      simp only [Option.elim_some, totpUnit_hidden]
      cases checkOperands s.params.emptyKeyReject key s.stepSecs s.digits <;> rfl
  | _ => rfl

/-- The columns, the hidden registers, the ports and the parameters are all of a state. -/
theorem eq_answer_of_writesOnly_nil {s t : State} {r : Response} (hw : WritesOnly [] s t) (hh : t.hidden = s.hidden)
    (hr : t.responses = s.responses ++ [r]) : t = answer s r.rstat r.rval := by
  obtain ⟨hcols, hparams, hseq, hin⟩ := hw
  have same (c : Column) : agreeOn c s t := hcols c List.not_mem_nil
  have htext : s.text = t.text := same .text
  have hkey : s.key = t.key := same .key
  have hmsg : s.msg = t.msg := same .msg
  have hdigest : s.digest = t.digest := same .digest
  have hcode : s.code = t.code := same .code
  have hnow : s.now = t.now := same .now
  have hstep : s.stepSecs = t.stepSecs := same .step
  have hdig : s.digits = t.digits := same .digits
  have hstatus : s.status = t.status := same .status
  rw [answer, htext, hkey, hmsg, hdigest, hcode, hnow, hstep, hdig, hstatus, ← hh, ← hseq, ← hparams, ← hin, ← hr]

theorem writesOnly_of_exec {i : Instr} {s t : State} (ht : exec i s = .next t) : WritesOnly (mayWrite i) s t := by
  obtain ⟨t', ht', hw⟩ := exec_writesOnly i s
  rwa [Host.Outcome.next.inj (ht.symm.trans ht')]

/-- A command that reads no column it writes, issued again on the state it left, adds the same response and changes nothing else. -/
theorem exec_again {i : Instr} (hdisj : ∀ c ∈ mayRead i, c ∉ mayWrite i) {s t : State} (ht : exec i s = .next t) :
    ∃ r, t.responses = s.responses ++ [r] ∧ exec i t = .next (answer t r.rstat r.rval) := by
  obtain ⟨hkept, hparams, -, -⟩ := writesOnly_of_exec ht
  have hread : ∀ c ∈ mayRead i, agreeOn c s t := fun c hc => hkept c (hdisj c hc)
  obtain ⟨t₁, t', ht₁, ht', r, hr, hr', hwritten⟩ := exec_answeredAlike i hparams.symm hread
  obtain rfl : t = t₁ := Host.Outcome.next.inj (ht.symm.trans ht₁)
  obtain ⟨hother, hports⟩ := writesOnly_of_exec ht'
  have hw : WritesOnly [] t t' := ⟨fun c _ => if hc : c ∈ mayWrite i then hwritten c hc else hother c hc, hports⟩
  have hh : t'.hidden = t.hidden := by
    rw [hidden_of_exec ht', ← hiddenAfter_of_agreeOn hparams.symm hread, hidden_of_exec ht, hiddenAfter_hiddenAfter]
  exact ⟨r, hr, ht'.trans (congrArg _ (eq_answer_of_writesOnly_nil hw hh hr'))⟩

/-! ### The commands of R56 -/

theorem mayWrite_of_returnsValue {i : Instr} (h : returnsValue i = true) : mayWrite i = [] := by
  cases i with
  | rdst | rdklen | rdk | rddlen | rdd | rdclen | rdc => rfl
  | _ => cases h

theorem hiddenAfter_of_mayWrite_nil {i : Instr} (hw : mayWrite i = []) (s : State) (h : Hidden) : hiddenAfter i s h = h := by
  cases i with
  | clr | b32dec | hmac | totp | totpt => cases hw
  | _ => rfl

/-- A command whose row marks no column as written only answers. -/
theorem exec_of_mayWrite_nil {i : Instr} (hw : mayWrite i = []) {s t : State} (ht : exec i s = .next t) :
    ∃ r : Response, t = answer s r.rstat r.rval := by
  obtain ⟨r, hr, -⟩ := exec_again (by simp [hw]) ht
  have hh : t.hidden = s.hidden := by rw [hidden_of_exec ht, hiddenAfter_of_mayWrite_nil hw]
  exact ⟨r, eq_answer_of_writesOnly_nil (hw ▸ writesOnly_of_exec ht) hh hr⟩

@[simp] theorem readBuffer_respond (s : State) (st : Byte) (v : Word64) (b : Buffer) :
    readBuffer (respond s st v) b = readBuffer s b := by
  cases b <;> rfl

/-- A push below the capacity makes its buffer one byte longer (20_memory.md R52). -/
theorem length_readBuffer_pushByte {s : State} {b : Buffer} (h : (readBuffer s b).length < capacity s.params b) (v : Byte) :
    (readBuffer (pushByte s b v) b).length = (readBuffer s b).length + 1 := by
  obtain ⟨hfull, -⟩ | ⟨-, e⟩ := pushByte_spec s b v
  · exact absurd hfull h.ne
  · rw [e, readBuffer_respond, readBuffer_writeBuffer, if_pos rfl, List.length_append, List.length_singleton]

/-- Settles O45: an idempotent command of R56 reads no column it writes, a read command writes none, and a push lengthens
its buffer. -/
theorem repeatedCommandsAreIdempotent : Obligations.RepeatedCommandsAreIdempotent := by
  refine ⟨fun i s t hi ht => exec_again ?_ ht, fun i s t hv ht => exec_of_mayWrite_nil (mayWrite_of_returnsValue hv) ht,
    fun s b h => ⟨_, rfl, length_readBuffer_pushByte (b := .text) h b⟩,
    fun s b h => ⟨_, rfl, length_readBuffer_pushByte (b := .key) h b⟩,
    fun s b h => ⟨_, rfl, length_readBuffer_pushByte (b := .msg) h b⟩⟩
  have disjoint : ∀ i ∈ [Instr.clrt, .clrk, .clrm, .clr, .b32dec, .hmac, .totp, .totpt],
      ∀ c ∈ mayRead i, c ∉ mayWrite i := by decide
  obtain hi | ⟨v, rfl⟩ | ⟨v, rfl⟩ | ⟨v, rfl⟩ := hi
  · exact disjoint i hi
  · exact List.forall_mem_nil _
  · exact List.forall_mem_nil _
  · exact List.forall_mem_nil _

end Sys2Proof
end

section
/-! PROOFS. 30_encoding.md R70 to R75: the decoder undoes the encoder, and whatever it answers carries the word's own OP and the ARG bits the
command uses. -/

namespace Sys2Proof

open Sys2Proof.Machine
open Laws.EncodesOwnOpcode (fields_commandWord)

/-! ### The ARG bits a command uses (R73) -/

theorem argByte_eq_setWidth (arg : Word64) : argByte arg = arg.setWidth 8 :=
  (BitVec.setWidth_eq_extractLsb' (by decide)).symm

theorem argWord_eq_setWidth (arg : Word64) : argWord arg = arg.setWidth 32 :=
  (BitVec.setWidth_eq_extractLsb' (by decide)).symm

theorem argByte_setWidth (b : Byte) : argByte (b.setWidth 64) = b := by
  rw [argByte_eq_setWidth, BitVec.setWidth_setWidth_of_le _ (by decide), BitVec.setWidth_eq]

theorem argWord_setWidth (v : Word32) : argWord (v.setWidth 64) = v := by
  rw [argWord_eq_setWidth, BitVec.setWidth_setWidth_of_le _ (by decide), BitVec.setWidth_eq]

theorem setWidth_argByte (arg : Word64) : (argByte arg).setWidth 64 = arg &&& 0xFF := by
  rw [argByte_eq_setWidth, BitVec.setWidth_eq_append (by decide)]
  exact (BitVec.and_setWidth_allOnes 56 8 arg).symm

theorem setWidth_argWord (arg : Word64) : (argWord arg).setWidth 64 = arg &&& 0xFFFFFFFF := by
  rw [argWord_eq_setWidth, BitVec.setWidth_eq_append (by decide)]
  exact (BitVec.and_setWidth_allOnes 32 32 arg).symm

theorem and_wholeMask (arg : Word64) : arg &&& 0xFFFFFFFFFFFFFFFF#64 = arg := BitVec.and_allOnes

/-! ### Decoding what is encoded (R70, R72) -/

theorem decode_commandWord (op : Byte) (arg : Word64) : decode (commandWord op arg) = decodeFields op arg := by
  obtain ⟨hop, harg⟩ := fields_commandWord op arg
  rw [decode, hop, harg]

/-- A command with an operand comes back because its operand is what the decoder takes from ARG (R73). -/
theorem decode_encode (i : Instr) : decode (encode i) = some i := by
  rw [encode, decode_commandWord]
  cases i with
  | pusht b => exact congrArg (some ∘ Instr.pusht) (argByte_setWidth b)
  | pushk b => exact congrArg (some ∘ Instr.pushk) (argByte_setWidth b)
  | pushm b => exact congrArg (some ∘ Instr.pushm) (argByte_setWidth b)
  | setstep v => exact congrArg (some ∘ Instr.setstep) (argWord_setWidth v)
  | setdig v => exact congrArg (some ∘ Instr.setdig) (argWord_setWidth v)
  | _ => rfl

/-- Settles O2: `decode_encode`; every command fits its word. -/
theorem decodeOfEncodeIsTheCommand : Obligations.DecodeOfEncodeIsTheCommand :=
  fun i _ => decode_encode i

/-- Settles O1: the decoder evaluated on each word. -/
theorem sampleWordsDecodeToTheirCommands : Obligations.SampleWordsDecodeToTheirCommands := by
  unfold Obligations.SampleWordsDecodeToTheirCommands
  decide

/-! ### What the decoder answers (R74, R75) -/

/-- The one split of the opcode map: a decoded command has the OP it was read from, and its ARG is the bits it uses. -/
theorem decodeFields_eq_some {op : Byte} {arg : Word64} {i : Instr} (h : decodeFields op arg = some i) :
    i.opcode = op ∧ i.arg = arg &&& i.argMask := by
  unfold decodeFields at h
  split at h <;> cases h <;>
    simp [Instr.opcode, Instr.arg, Instr.argMask, setWidth_argByte, setWidth_argWord, and_wholeMask]

theorem opcode_of_decode {w : Word72} {i : Instr} (h : decode w = some i) : i.opcode = opField w :=
  (decodeFields_eq_some h).1

theorem encode_of_decode {w : Word72} {i : Instr} (h : decode w = some i) :
    encode i = commandWord (opField w) (argField w &&& i.argMask) := by
  obtain ⟨hop, harg⟩ := decodeFields_eq_some h
  rw [encode, hop, harg]

theorem isSome_decodeFields_opcode (i : Instr) (arg : Word64) : (decodeFields i.opcode arg).isSome = true := by
  cases i <;> rfl

/-- A legal OP is legal with every ARG (R75). -/
theorem isSome_decodeFields_of_isSome {op : Byte} {arg : Word64} (h : (decodeFields op arg).isSome = true) (arg' : Word64) :
    (decodeFields op arg').isSome = true := by
  obtain ⟨i, hi⟩ := Option.isSome_iff_exists.mp h
  obtain ⟨rfl, -⟩ := decodeFields_eq_some hi
  exact isSome_decodeFields_opcode i arg'

theorem isSome_decodeFields_eq (op : Byte) (arg arg' : Word64) :
    (decodeFields op arg).isSome = (decodeFields op arg').isSome :=
  Bool.eq_iff_iff.mpr ⟨(isSome_decodeFields_of_isSome · arg'), (isSome_decodeFields_of_isSome · arg)⟩

/-- The OP values of the map are those outside R74's ranges; which they are does not depend on ARG. -/
theorem isSome_decodeFields (op : Byte) (arg : Word64) : (decodeFields op arg).isSome = legalOp op := by
  have atZero : ∀ op : Byte, (decodeFields op 0).isSome = legalOp op := by decide
  rw [isSome_decodeFields_eq op arg 0, atZero]

theorem decode_eq_none_iff (w : Word72) : decode w = none ↔ legalOp (opField w) = false := by
  rw [← isSome_decodeFields _ (argField w), Option.isSome_eq_false_iff, Option.isNone_iff_eq_none, decode]

theorem isNone_decode_commandWord (op : Byte) (arg : Word64) : (decode (commandWord op arg)).isNone = !legalOp op := by
  rw [decode_commandWord, ← isSome_decodeFields op arg, Option.not_isSome]

theorem legalOp_eq_false_iff (op : Byte) :
    legalOp op = false ↔
      (0x03 ≤ op.toNat ∧ op.toNat ≤ 0x0F) ∨ (0x19 ≤ op.toNat ∧ op.toNat ≤ 0x1F) ∨
        (0x26 ≤ op.toNat ∧ op.toNat ≤ 0x2F) ∨ 0x34 ≤ op.toNat := by
  simp only [legalOp, Bool.not_eq_false', Bool.or_eq_true, Bool.and_eq_true, decide_eq_true_eq, BitVec.le_def, or_assoc]
  rfl

/-- Settles O3: `encode_of_decode`, `opcode_of_decode` and `isSome_decodeFields_eq`. -/
theorem decoderIsTotalAndUnambiguous : Obligations.DecoderIsTotalAndUnambiguous := by
  refine ⟨fun w => ?_, fun w w' i i' hi hi' hne => ?_, fun op a a' => ?_⟩
  · cases hw : decode w with
    | none => exact .inl rfl
    | some i => exact .inr ⟨i, rfl, encode_of_decode hw⟩
  · rwa [opcode_of_decode hi, opcode_of_decode hi']
  · rw [decode_commandWord, decode_commandWord, isSome_decodeFields_eq]

/-- Settles O4: the illegal words are those `legalOp` refuses, counted over the 256 OP values, and a step answers such a word and
does nothing else. -/
theorem unlistedOpcodesAreRefusedAsIllegal : Obligations.UnlistedOpcodesAreRefusedAsIllegal := by
  refine ⟨fun w => (decode_eq_none_iff w).trans (legalOp_eq_false_iff _), ?_, fun s w rest hin hw => step_of_illegal hin hw⟩
  simp only [isNone_decode_commandWord]
  decide +kernel

end Sys2Proof
end

section
/-! PROOFS. 30_encoding.md R71: every command ends in one response, with a byte of R71's list, and each byte of the list is some command's. -/

namespace Sys2Proof

open Sys2Proof.Machine
open Laws.EncodesOwnOpcode (fields_commandWord)

/-! ### The response of a command -/

/-- What R71 and R72 allow in the response of a command: one of the nine RSTAT bytes, and RVAL = 0 on an error and in a command that
returns no value. -/
def AllowedResponse (i : Instr) (r : Response) : Prop :=
  r.rstat ∈ legalRstat ∧ (r.rstat ≠ 0x00 → r.rval = 0) ∧ (returnsValue i = false → r.rval = 0)

theorem allowedResponse_of_rval_zero {st : Byte} (h : st ∈ legalRstat) (i : Instr) : AllowedResponse i ⟨st, 0⟩ :=
  ⟨h, fun _ => rfl, fun _ => rfl⟩

theorem allowedResponse_of_returnsValue {i : Instr} (h : returnsValue i = true) (v : Word64) : AllowedResponse i ⟨0x00, v⟩ :=
  ⟨.head _, fun hne => absurd rfl hne, fun hf => absurd (hf.symm.trans h) (by decide)⟩

/-- `t` has one response more than `s`, one that R71 allows `i`. -/
def AnswersOnce (i : Instr) (s t : State) : Prop := ∃ r, t.responses = s.responses ++ [r] ∧ AllowedResponse i r

theorem answersOnce_of_rval_zero (i : Instr) {s t : State} {st : Byte} (h : st ∈ legalRstat)
    (hr : t.responses = s.responses ++ [⟨st, 0⟩]) : AnswersOnce i s t :=
  ⟨_, hr, allowedResponse_of_rval_zero h i⟩

theorem answersOnce_of_returnsValue {i : Instr} (h : returnsValue i = true) {s t : State} {v : Word64}
    (hr : t.responses = s.responses ++ [⟨0x00, v⟩]) : AnswersOnce i s t :=
  ⟨_, hr, allowedResponse_of_returnsValue h v⟩

theorem answersOnce_pushByte (i : Instr) (s : State) (b : Buffer) (v : Byte) : AnswersOnce i s (pushByte s b v) := by
  obtain ⟨-, e⟩ | ⟨-, e⟩ := pushByte_spec s b v
  · exact answersOnce_of_rval_zero i (by decide) (congrArg State.responses e)
  · refine answersOnce_of_rval_zero (st := 0x00) i (by decide) (e ▸ ?_)
    cases b <;> rfl

theorem answersOnce_readIndexed {i : Instr} (h : returnsValue i = true) (s : State) (b : Buffer) (index : Word64) :
    AnswersOnce i s (readIndexed s b index) := by
  obtain ⟨-, e⟩ | ⟨_, e⟩ := readIndexed_spec s b index
  · exact answersOnce_of_rval_zero i (by decide) (congrArg State.responses e)
  · exact answersOnce_of_returnsValue h (congrArg State.responses e)

/-- Generation ends with success or with an error of the operand checks (42_totp.md R142). -/
theorem generationStatus_genTotp_mem (reject : Bool) (key : List Byte) (now : Word64) (stepSecs digits : Word32) :
    generationStatus (genTotp reject key now stepSecs digits) ∈ legalRstat := by
  rw [genTotp, totpUnit]
  obtain ⟨-, e⟩ | ⟨-, -, e⟩ | ⟨-, -, -, -, -, e⟩ | ⟨-, -, -, -, e⟩ := checkOperands_spec reject key stepSecs digits <;> rw [e]
  · exact show 0x22#8 ∈ legalRstat by decide
  · exact show 0x32#8 ∈ legalRstat by decide
  · exact show 0x42#8 ∈ legalRstat by decide
  · exact show 0x00#8 ∈ legalRstat by decide

theorem generationStatus_genTotpt_mem (reject : Bool) (text : List Byte) (now : Word64) (stepSecs digits : Word32) :
    generationStatus (genTotpt reject text now stepSecs digits) ∈ legalRstat := by
  rw [genTotpt]
  cases b32Decode text with
  | none => exact show 0x12#8 ∈ legalRstat by decide
  | some key => exact generationStatus_genTotp_mem reject key now stepSecs digits

/-- Every command runs to a next state from every state, and answers once. -/
theorem exec_answersOnce (i : Instr) (s : State) : ∃ t, exec i s = .next t ∧ AnswersOnce i s t := by
  cases i with
  | nop | clr | clrt | clrk | clrm | setnow | setstep | setdig =>
    exact ⟨_, rfl, answersOnce_of_rval_zero (st := 0x00) _ (by decide) rfl⟩
  | rdst | rdklen | rddlen | rdclen => exact ⟨_, rfl, answersOnce_of_returnsValue rfl rfl⟩
  | pusht c => exact ⟨_, rfl, answersOnce_pushByte _ s .text c⟩
  | pushk b => exact ⟨_, rfl, answersOnce_pushByte _ s .key b⟩
  | pushm b => exact ⟨_, rfl, answersOnce_pushByte _ s .msg b⟩
  | rdk index => exact ⟨_, rfl, answersOnce_readIndexed rfl s .key index⟩
  | rdd index => exact ⟨_, rfl, answersOnce_readIndexed rfl s .digest index⟩
  | rdc index => exact ⟨_, rfl, answersOnce_readIndexed rfl s .code index⟩
  | b32dec =>
    refine ⟨_, exec_b32dec s, answersOnce_of_rval_zero _ ?_ rfl⟩
    cases b32Decode s.text with
    | none => decide
    | some bytes => exact .head _
  | hmac => exact ⟨_, exec_hmac s, answersOnce_of_rval_zero (st := 0x00) _ (by decide) rfl⟩
  | totp => exact ⟨_, exec_totp s, answersOnce_of_rval_zero _ (generationStatus_genTotp_mem _ _ _ _ _) rfl⟩
  | totpt => exact ⟨_, exec_totpt s, answersOnce_of_rval_zero _ (generationStatus_genTotpt_mem _ _ _ _ _) rfl⟩

/-! ### Each byte is produced -/

/-- Some command word, taken in some state, is answered with the byte. -/
def IsProduced (b : Byte) : Prop :=
  ∃ s w t v, s.inputs = [.command w] ∧ step s = .next t ∧ t.responses = s.responses ++ [⟨b, v⟩]

/-- A step that takes the encoding of a command executes it. -/
theorem isProduced_of_exec (i : Instr) (s : State) {t : State} {b : Byte} {v : Word64}
    (ht : exec i { s with inputs := [] } = .next t) (hr : t.responses = s.responses ++ [⟨b, v⟩]) : IsProduced b :=
  ⟨presenting s [i], encode i, t, v, rfl, (step_of_command rfl (decode_encode i)).trans ht, hr⟩

/-- The causes of 60_exceptions.md R200, each in the reset state but for the operand at fault. -/
theorem isProduced_of_mem_legalRstat : ∀ b ∈ legalRstat, IsProduced b := by
  simp only [legalRstat, List.forall_mem_cons]
  refine ⟨?success, ?invalidCharacter, ?decodeFailed, ?stepZero, ?digitsRange, ?invalidSecret, ?illegalCommand, ?badIndex,
    ?overflow, List.forall_mem_nil _⟩
  case success => exact isProduced_of_exec .nop .reset rfl rfl
  case invalidCharacter => exact isProduced_of_exec .b32dec { State.reset with text := [0x31] } rfl rfl
  case decodeFailed => exact isProduced_of_exec .totpt { State.reset with text := [0x31] } rfl rfl
  case stepZero => exact isProduced_of_exec .totp { State.reset with stepSecs := 0 } rfl rfl
  case digitsRange => exact isProduced_of_exec .totp { State.reset with digits := 11 } rfl rfl
  case invalidSecret => exact isProduced_of_exec .totp (.resetWith ⟨32, 20, 8, true⟩) rfl rfl
  case illegalCommand =>
    exact ⟨{ State.reset with inputs := [.command 0x340000000000000000] }, _, _, _, rfl, step_of_illegal rfl (by decide), rfl⟩
  case badIndex => exact isProduced_of_exec (.rdk 0) .reset rfl rfl
  case overflow =>
    exact isProduced_of_exec (.pusht 0x41) { State.reset with text := List.replicate 64 0x41 } rfl rfl

/-- Settles O5: `exec_answersOnce` for a command, (0x03, 0) for an illegal word, and a state for each byte. -/
theorem everyCommandGetsOneResponse : Obligations.EveryCommandGetsOneResponse := by
  refine ⟨fun s w rest hin => ?_, isProduced_of_mem_legalRstat, fun r => fields_commandWord r.rstat r.rval, by decide⟩
  cases hw : decode w with
  | none => exact ⟨_, ⟨0x03, 0⟩, step_of_illegal hin hw, rfl, rfl, by decide, fun _ => rfl, nofun⟩
  | some i =>
    obtain ⟨t, ht, r, hr, hmem, herr, hval⟩ := exec_answersOnce i { s with inputs := rest }
    obtain ⟨-, -, -, hinputs⟩ := writesOnly_of_exec ht
    refine ⟨t, r, (step_of_command hin hw).trans ht, hinputs, hr, hmem, herr, fun i' hi' => ?_⟩
    obtain rfl : i = i' := Option.some.inj hi'
    exact hval

end Sys2Proof
end

section
/-! PROOFS. 40_base32.md R93 to R95: what one character does to the decoder, by its class, and which texts decode. -/

namespace Sys2Proof.Machine

/-! ### Upper case and the classes of a character -/

/-- The fold of R94 is the upper case of R102. -/
theorem foldCase_eq_upper (c : Byte) : foldCase c = upper c := by
  by_cases h : 0x61#8 ≤ c ∧ c ≤ 0x7A#8
  · rw [foldCase, if_pos h, upper, if_pos (by simpa [BitVec.le_def] using h)]
    bv_omega
  · rw [foldCase, if_neg h, upper, if_neg (by simpa [BitVec.le_def] using h)]

/-- The table of R95 is the position in the alphabet. -/
theorem symbolValue_eq :
    ∀ c, symbolValue c = if c ∈ alphabet then some (BitVec.ofNat 5 (alphabet.idxOf c)) else none := by
  decide +kernel

theorem upper_cases (c : Byte) :
    (0x61 ≤ c.toNat ∧ c.toNat ≤ 0x7A ∧ upper c = BitVec.ofNat 8 (c.toNat - 0x20)) ∨ upper c = c := by
  by_cases h : 0x61 ≤ c.toNat ∧ c.toNat ≤ 0x7A
  · exact .inl ⟨h.1, h.2, if_pos h⟩
  · exact .inr (if_neg h)

theorem upper_upper (c : Byte) : upper (upper c) = upper c := by
  obtain ⟨hlo, hhi, e⟩ | e := upper_cases c
  · have capital : (BitVec.ofNat 8 (c.toNat - 0x20)).toNat < 0x61 := by rw [BitVec.toNat_ofNat]; omega
    rw [e, upper, if_neg fun h => Nat.not_le.mpr capital h.1]
  · rw [e, e]

theorem upper_eq_padChar_iff (c : Byte) : upper c = padChar ↔ c = padChar := by
  obtain ⟨hlo, hhi, e⟩ | e := upper_cases c <;> rw [e]
  bv_omega

/-- The value of a symbol, its position in the alphabet. -/
def symbolOf (c : Byte) : BitVec 5 := BitVec.ofNat 5 (alphabet.idxOf (upper c))

theorem toNat_symbolOf {c : Byte} (h : upper c ∈ alphabet) : (symbolOf c).toNat = alphabet.idxOf (upper c) := by
  rw [symbolOf, BitVec.toNat_ofNat]
  exact Nat.mod_eq_of_lt (List.idxOf_lt_length_of_mem h)

theorem symbolValue_foldCase (c : Byte) :
    symbolValue (foldCase c) = if upper c ∈ alphabet then some (symbolOf c) else none := by
  rw [foldCase_eq_upper, symbolValue_eq, symbolOf]

/-- Padding is skipped, a symbol is shifted in by its value, and anything else ends the decode (R93, R95). -/
theorem decodeChar_classes (c : Byte) :
    (c = padChar ∧ ∀ d, decodeChar d c = some d) ∨
      (invalidChar c ∧ ∀ d, decodeChar d c = none) ∨
      (c ≠ padChar ∧ upper c ∈ alphabet ∧ ∀ d, decodeChar d c = some (emitByte (shiftIn d (symbolOf c)))) := by
  by_cases hp : c = padChar
  · exact .inl ⟨hp, fun d => if_pos hp⟩
  · by_cases hs : upper c ∈ alphabet
    · refine .inr (.inr ⟨hp, hs, fun d => ?_⟩)
      rw [decodeChar, if_neg hp, symbolValue_foldCase, if_pos hs]
    · refine .inr (.inl ⟨⟨hp, hs⟩, fun d => ?_⟩)
      rw [decodeChar, if_neg hp, symbolValue_foldCase, if_neg hs]

/-- Padding is never an InvalidCharacter (R93). -/
theorem not_invalidChar_padChar : ¬invalidChar padChar := fun h => h.1 rfl

theorem decodeChar_eq_none_iff (d : DecoderRegs) (c : Byte) : decodeChar d c = none ↔ invalidChar c := by
  obtain ⟨rfl, e⟩ | ⟨hi, e⟩ | ⟨-, hs, e⟩ := decodeChar_classes c <;> rw [e]
  · exact iff_of_false nofun not_invalidChar_padChar
  · simp [hi]
  · simp [invalidChar, hs]

theorem decodeChar_upper (d : DecoderRegs) (c : Byte) : decodeChar d (upper c) = decodeChar d c := by
  simp only [decodeChar, upper_eq_padChar_iff, foldCase_eq_upper, upper_upper]

/-! ### Texts -/

theorem decodeChars_append (d : DecoderRegs) (t u : List Byte) :
    decodeChars d (t ++ u) = (decodeChars d t).bind fun d' => decodeChars d' u := by
  induction t generalizing d with
  | nil => rfl
  | cons c t ih => simp only [List.cons_append, decodeChars_cons, ih, Option.bind_assoc]

/-- A text fails exactly when it holds an invalid character, wherever that stands (R95). -/
theorem decodeChars_eq_none_iff (d : DecoderRegs) (t : List Byte) :
    decodeChars d t = none ↔ ∃ c ∈ t, invalidChar c := by
  induction t generalizing d with
  | nil => simp
  | cons c t ih =>
    rw [decodeChars_cons, List.exists_mem_cons_iff, ← decodeChar_eq_none_iff d c]
    cases decodeChar d c with
    | none => simp
    | some d₁ => simpa using ih d₁

theorem b32Decode_eq_none_iff (t : List Byte) : b32Decode t = none ↔ ∃ c ∈ t, invalidChar c := by
  rw [b32Decode_eq, Option.map_eq_none_iff, decodeChars_eq_none_iff]

theorem decodeChars_map_upper (d : DecoderRegs) (t : List Byte) : decodeChars d (t.map upper) = decodeChars d t := by
  induction t generalizing d with
  | nil => rfl
  | cons c t ih => simp only [List.map_cons, decodeChars_cons, decodeChar_upper, ih]

theorem decodeChars_padChar_cons (d : DecoderRegs) (t : List Byte) : decodeChars d (padChar :: t) = decodeChars d t := rfl

end Sys2Proof.Machine
end

section
/-! PROOFS. 40_base32.md R96, R97, R104: the accumulator's live bits. A decode is the arithmetic of one number, which a shift-in extends by
five bits and an emit only divides anew between OUT and ACC; the stale bits of ACC take no part in it. -/

namespace Sys2Proof.Machine

/-- The live bits of ACC as a number, those below position CNT (R104). -/
def DecoderRegs.live (d : DecoderRegs) : Nat := d.acc.toNat % 2 ^ d.cnt.toNat

/-- The bits of OUT and the live bits after them as one number: `d.bits` bits of it, leading zeros counted. -/
def DecoderRegs.number (d : DecoderRegs) : Nat := 2 ^ d.cnt.toNat * bigEndian d.out + d.live

theorem DecoderRegs.live_lt (d : DecoderRegs) : d.live < 2 ^ d.cnt.toNat := Nat.mod_lt _ (Nat.two_pow_pos _)

/-! ### Shift-in -/

/-- The symbol's bits are disjoint from the shifted ones, so R96's `|` is a sum. -/
theorem toNat_shiftIn_acc (d : DecoderRegs) (v : BitVec 5) :
    (shiftIn d v).acc.toNat = (32 * d.acc.toNat + v.toNat) % 2 ^ 13 := by
  have hv : v.toNat < 2 ^ 5 := v.isLt
  have shifted : d.acc.toNat <<< 5 % 2 ^ 13 = (d.acc.toNat % 2 ^ 8) <<< 5 := by
    simp only [Nat.shiftLeft_eq]; omega
  rw [shiftIn_acc, BitVec.toNat_or, BitVec.toNat_shiftLeft, shifted, BitVec.toNat_setWidth,
    Nat.mod_eq_of_lt (hv.trans (by decide)), ← Nat.shiftLeft_add_eq_or_of_lt hv, Nat.shiftLeft_eq]
  omega

/-- The bits that leave ACC at bit 12 are not live (R104). -/
theorem shiftIn_live {d : DecoderRegs} (h : d.cnt.toNat ≤ 7) (v : BitVec 5) :
    (shiftIn d v).live = 32 * d.live + v.toNat := by
  have hv : v.toNat < 32 := v.isLt
  have hdvd : 2 ^ (d.cnt.toNat + 5) ∣ 2 ^ 13 := pow_dvd_pow 2 (by omega)
  have hpow : 2 ^ (d.cnt.toNat + 5) = 32 * 2 ^ d.cnt.toNat := by rw [pow_add, mul_comm]; rfl
  have low : (32 * d.acc.toNat + v.toNat) % 32 = v.toNat := by omega
  have high : (32 * d.acc.toNat + v.toNat) / 32 = d.acc.toNat := by omega
  simp only [DecoderRegs.live, toNat_shiftIn_acc, shiftIn_cnt, toNat_cnt_add_five d h]
  rw [Nat.mod_mod_of_dvd _ hdvd, hpow, Nat.mod_mul, low, high, Nat.add_comm]

theorem shiftIn_bits {d : DecoderRegs} (h : d.cnt.toNat ≤ 7) (v : BitVec 5) : (shiftIn d v).bits = d.bits + 5 := by
  rw [DecoderRegs.bits, shiftIn_out, shiftIn_cnt, toNat_cnt_add_five d h, DecoderRegs.bits, Nat.add_assoc]

theorem shiftIn_number {d : DecoderRegs} (h : d.cnt.toNat ≤ 7) (v : BitVec 5) :
    (shiftIn d v).number = 32 * d.number + v.toNat := by
  simp only [DecoderRegs.number, shiftIn_live h, shiftIn_out, shiftIn_cnt, toNat_cnt_add_five d h]
  ring

/-! ### Emit -/

theorem toNat_emitByte_cnt_of_full {d : DecoderRegs} (h : 8 ≤ d.cnt.toNat) :
    (emitByte d).cnt.toNat = d.cnt.toNat - 8 := by
  rw [emitByte_of_full d h, toNat_cnt_sub_eight d h]

/-- Whatever CNT held, one emit is enough (R104). -/
theorem emitByte_cnt_le (d : DecoderRegs) : (emitByte d).cnt.toNat ≤ 7 := by
  have hcnt : d.cnt.toNat < 16 := d.cnt.isLt
  by_cases h : 8 ≤ d.cnt.toNat
  · rw [toNat_emitByte_cnt_of_full h]; omega
  · rw [emitByte_of_short d (Nat.lt_of_not_le h)]; omega

/-- The byte emitted is the top 8 of the live bits (R97). -/
theorem emitByte_out_of_full {d : DecoderRegs} (h : 8 ≤ d.cnt.toNat) :
    (emitByte d).out = d.out ++ [BitVec.ofNat 8 (d.live / 2 ^ (d.cnt.toNat - 8))] := by
  have hpow : 2 ^ d.cnt.toNat = 2 ^ (d.cnt.toNat - 8) * 2 ^ 8 := by rw [← pow_add, Nat.sub_add_cancel h]
  have top : d.live / 2 ^ (d.cnt.toNat - 8) = d.acc.toNat / 2 ^ (d.cnt.toNat - 8) % 2 ^ 8 := by
    rw [DecoderRegs.live, hpow, Nat.mod_mul_right_div_self]
  have byte : (d.acc >>> (d.cnt - 8#4).toNat).setWidth 8 = BitVec.ofNat 8 (d.live / 2 ^ (d.cnt.toNat - 8)) := by
    rw [top, toNat_cnt_sub_eight d h]
    apply BitVec.eq_of_toNat_eq
    simp [Nat.shiftRight_eq_div_pow]
  rw [emitByte_of_full d h, byte]

/-- The bits left are those of the live bits below the byte emitted, if one is. -/
theorem emitByte_live (d : DecoderRegs) : (emitByte d).live = d.live % 2 ^ (emitByte d).cnt.toNat := by
  have hle : (emitByte d).cnt.toNat ≤ d.cnt.toNat := by
    by_cases h : 8 ≤ d.cnt.toNat
    · exact (toNat_emitByte_cnt_of_full h).trans_le (Nat.sub_le _ 8)
    · rw [emitByte_of_short d (Nat.lt_of_not_le h)]
  rw [DecoderRegs.live, DecoderRegs.live, emitByte_acc, Nat.mod_mod_of_dvd _ (pow_dvd_pow 2 hle)]

theorem bigEndian_concat (bytes : List Byte) (b : Byte) : bigEndian (bytes ++ [b]) = 256 * bigEndian bytes + b.toNat := by
  simp [bigEndian]

theorem emitByte_number (d : DecoderRegs) : (emitByte d).number = d.number := by
  by_cases h : 8 ≤ d.cnt.toNat
  · have hpow : 2 ^ d.cnt.toNat = 2 ^ (d.cnt.toNat - 8) * 256 := by
      rw [← Nat.sub_add_cancel h, pow_add, Nat.add_sub_cancel]; rfl
    have hbyte : d.live / 2 ^ (d.cnt.toNat - 8) < 2 ^ 8 := Nat.div_lt_of_lt_mul (hpow ▸ d.live_lt)
    have hcnt := toNat_emitByte_cnt_of_full h
    simp only [DecoderRegs.number, emitByte_live, hcnt, emitByte_out_of_full h, bigEndian_concat, BitVec.toNat_ofNat,
      Nat.mod_eq_of_lt hbyte]
    generalize 2 ^ (d.cnt.toNat - 8) = m at hpow
    calc
      m * (256 * bigEndian d.out + d.live / m) + d.live % m
          = m * 256 * bigEndian d.out + (m * (d.live / m) + d.live % m) := by ring
      _ = 2 ^ d.cnt.toNat * bigEndian d.out + d.live := by rw [Nat.div_add_mod, hpow]
  · rw [emitByte_of_short d (Nat.lt_of_not_le h)]

/-! ### A decode from its start -/

/-- The registers between symbols once the text `t` has been read from the start (R103, R104; 20_memory.md R53). -/
structure DecoderRegs.HasRead (d : DecoderRegs) (t : List Byte) : Prop where
  cnt_le : d.cnt.toNat ≤ 7
  bits : d.bits = 5 * (symbols t).length
  number : d.number = symbolNumber t

theorem hasRead_nil : DecoderRegs.HasRead { acc := 0, cnt := 0, out := [] } [] where
  cnt_le := by decide
  bits := rfl
  number := rfl

theorem symbols_concat_padChar (t : List Byte) : symbols (t ++ [padChar]) = symbols t := by simp [symbols]

theorem symbols_concat_of_ne {c : Byte} (h : c ≠ padChar) (t : List Byte) : symbols (t ++ [c]) = symbols t ++ [c] := by
  simpa [symbols] using h

theorem symbolNumber_concat_of_ne {c : Byte} (h : c ≠ padChar) (t : List Byte) :
    symbolNumber (t ++ [c]) = 32 * symbolNumber t + alphabet.idxOf (upper c) := by
  simp only [symbolNumber, symbols_concat_of_ne h, List.foldl_concat]

theorem DecoderRegs.HasRead.after_decodeChar {d d' : DecoderRegs} {t : List Byte} {c : Byte} (h : d.HasRead t)
    (hc : decodeChar d c = some d') : d'.HasRead (t ++ [c]) := by
  obtain ⟨rfl, e⟩ | ⟨-, e⟩ | ⟨hp, hs, e⟩ := decodeChar_classes c <;> rw [e] at hc
  · cases hc
    have hsym := symbols_concat_padChar t
    exact {
      cnt_le := h.cnt_le
      bits := by rw [h.bits, hsym]
      number := by rw [h.number, symbolNumber, symbolNumber, hsym] }
  · cases hc
  · cases hc
    exact {
      cnt_le := emitByte_cnt_le _
      bits := by
        rw [emitByte_bits, shiftIn_bits h.cnt_le, h.bits, symbols_concat_of_ne hp, List.length_append, List.length_singleton,
          Nat.mul_add]
      number := by
        rw [emitByte_number, shiftIn_number h.cnt_le, h.number, toNat_symbolOf hs, symbolNumber_concat_of_ne hp] }

theorem DecoderRegs.HasRead.after_decodeChars {d d' : DecoderRegs} {t u : List Byte} (h : d.HasRead t)
    (hu : decodeChars d u = some d') : d'.HasRead (t ++ u) := by
  induction u generalizing d t with
  | nil => cases hu; rwa [List.append_nil]
  | cons c u ih =>
    rw [decodeChars_cons, Option.bind_eq_some_iff] at hu
    obtain ⟨d₁, hc, hu⟩ := hu
    rw [List.append_cons]
    exact ih (h.after_decodeChar hc) hu

/-- OUT is the number without its live bits, which are fewer than 8 (R100). -/
theorem DecoderRegs.HasRead.out {d : DecoderRegs} {t : List Byte} (h : d.HasRead t) :
    d.out.length = 5 * (symbols t).length / 8 ∧
      bigEndian d.out = symbolNumber t / 2 ^ (5 * (symbols t).length % 8) := by
  have hcnt := h.cnt_le
  have hbits := h.bits
  rw [DecoderRegs.bits] at hbits
  have hmod : 5 * (symbols t).length % 8 = d.cnt.toNat := by omega
  refine ⟨by omega, ?_⟩
  rw [hmod, ← h.number, DecoderRegs.number, Nat.mul_add_div (Nat.two_pow_pos _), Nat.div_eq_of_lt d.live_lt, Nat.add_zero]

/-! ### Two decoders that differ in stale bits -/

/-- Two decoders that agree on all but the stale bits of ACC (R104). -/
structure DecoderRegs.SameLive (d d' : DecoderRegs) : Prop where
  cnt : d.cnt = d'.cnt
  out : d.out = d'.out
  live : d.live = d'.live

namespace DecoderRegs.SameLive

variable {d d' : DecoderRegs} (h : d.SameLive d')
include h

theorem after_shiftIn (hcnt : d.cnt.toNat ≤ 7) (v : BitVec 5) : (shiftIn d v).SameLive (shiftIn d' v) where
  cnt := by rw [shiftIn_cnt, shiftIn_cnt, h.cnt]
  out := h.out
  live := by rw [shiftIn_live hcnt, shiftIn_live (h.cnt ▸ hcnt), h.live]

theorem after_emitByte : (emitByte d).SameLive (emitByte d') := by
  by_cases hfull : 8 ≤ d.cnt.toNat
  · have hfull' : 8 ≤ d'.cnt.toNat := h.cnt ▸ hfull
    have hcnt : (emitByte d).cnt = (emitByte d').cnt := by
      rw [emitByte_of_full d hfull, emitByte_of_full d' hfull', h.cnt]
    exact {
      cnt := hcnt
      out := by rw [emitByte_out_of_full hfull, emitByte_out_of_full hfull', h.out, h.live, h.cnt]
      live := by rw [emitByte_live, emitByte_live, h.live, hcnt] }
  · rw [emitByte_of_short d (Nat.lt_of_not_le hfull), emitByte_of_short d' (Nat.lt_of_not_le (h.cnt ▸ hfull))]
    exact h

/-- Only the live bits reach an output (R104). -/
theorem decodeChars_out (hcnt : d.cnt.toNat ≤ 7) (t : List Byte) :
    (decodeChars d t).map DecoderRegs.out = (decodeChars d' t).map DecoderRegs.out := by
  induction t generalizing d d' with
  | nil => exact congrArg some h.out
  | cons c t ih =>
    rw [decodeChars_cons, decodeChars_cons]
    obtain ⟨-, e⟩ | ⟨-, e⟩ | ⟨-, -, e⟩ := decodeChar_classes c
    · rw [e, e]; exact ih h hcnt
    · rw [e, e]
    · rw [e, e]; exact ih (h.after_shiftIn hcnt _).after_emitByte (emitByte_cnt_le _)

end DecoderRegs.SameLive

end Sys2Proof.Machine
end

section
/-! PROOFS. 40_base32.md: the statements about the decoder and B32DEC, from the rules of its characters and of its accumulator. -/

namespace Sys2Proof

open Sys2Proof.Machine

/-- Settles O23: the decode of a text in two parts, the second of which begins with the padding character. -/
theorem paddingIsSkippedWhereverItStands : Obligations.PaddingIsSkippedWhereverItStands := by
  refine ⟨fun _ => rfl, fun t u => ?_⟩
  simp only [b32Decode_eq, decodeChars_append, decodeChars_padChar_cons]

/-- Settles O24: each character and its upper-case form do the same. -/
theorem decodingIsCaseInsensitive : Obligations.DecodingIsCaseInsensitive := by
  intro t
  rw [b32Decode_eq, b32Decode_eq, decodeChars_map_upper]

/-- Settles O22: the counts are taken over the 256 codes. -/
theorem charactersFallInThreeClasses : Obligations.CharactersFallInThreeClasses := by
  refine ⟨symbolValue_foldCase, ?_, by decide +kernel, by decide +kernel, fun t c hc hi => ?_⟩
  · rintro c rfl
    decide
  · exact (b32Decode_eq_none_iff t).mpr ⟨c, hc, hi⟩

/-- Settles O25: the invariant `DecoderRegs.HasRead`, and the relation `DecoderRegs.SameLive` for the stale bits. -/
theorem accumulatorStaysInItsBounds : Obligations.AccumulatorStaysInItsBounds := by
  refine ⟨fun d t d' ht => ?_, fun d d' t hle hcnt hout hlive => ?_⟩
  · have hread : d'.HasRead t := hasRead_nil.after_decodeChars ht
    refine ⟨hread.cnt_le, hread.bits.symm, fun v => ?_⟩
    have hcnt := hread.cnt_le
    rw [shiftIn_cnt, toNat_cnt_add_five d' hcnt]
    exact ⟨by omega, by omega, emitByte_cnt_le _⟩
  · have same : d.SameLive d' := ⟨hcnt, hout, by rw [DecoderRegs.live, hlive, hcnt, DecoderRegs.live]⟩
    exact same.decodeChars_out hle t

/-- Settles O26: a text without invalid characters is read to its end, and then OUT is what `DecoderRegs.HasRead.out` says. -/
theorem accumulatorComputesBase32 : Obligations.AccumulatorComputesBase32 := by
  refine fun t => ⟨fun hvalid => ?_, (b32Decode_eq_none_iff t).mpr⟩
  cases hd : decodeChars { acc := 0, cnt := 0, out := [] } t with
  | none =>
    obtain ⟨c, hc, hi⟩ := (decodeChars_eq_none_iff _ t).mp hd
    exact absurd hi (hvalid c hc)
  | some d =>
    have hread : d.HasRead t := hasRead_nil.after_decodeChars hd
    exact ⟨d.out, by rw [b32Decode_eq, hd, Option.map_some], hread.out⟩

/-- Fewer than 8 bits are no byte (R100, R101). -/
theorem b32Decode_eq_nil {t : List Byte} (hvalid : ∀ c ∈ t, ¬invalidChar c) (hn : (symbols t).length ≤ 1) :
    b32Decode t = some [] := by
  obtain ⟨bytes, hd, hlen, -⟩ := (accumulatorComputesBase32 t).1 hvalid
  obtain rfl : bytes = [] := List.length_eq_zero_iff.mp (by omega)
  exact hd

/-- Settles O21: B32DEC is one update of the state, `exec_b32dec`, and at most one symbol is at most five bits. -/
theorem b32decWritesKeyOrFailsWithNoPartialOutput : Obligations.B32decWritesKeyOrFailsWithNoPartialOutput := by
  refine ⟨fun s bytes hd => ?_, fun s hd => ?_, fun p t bytes hp ht hd => ?_, rfl, fun n => ?_, fun c hc => ?_, by decide⟩
  · rw [exec_b32dec, hd]; rfl
  · rw [exec_b32dec, hd]; rfl
  · calc
      bytes.length ≤ 5 * t.length / 8 := b32Decode_length_le hd
      _ ≤ 5 * p.textMax / 8 := Nat.div_le_div_right (Nat.mul_le_mul_left 5 ht)
      _ ≤ p.keyMax := Params.wellFormed_decode_fits hp
  · refine b32Decode_eq_nil (fun c hc => ?_) (by simp [symbols])
    rw [List.eq_of_mem_replicate hc]
    exact not_invalidChar_padChar
  · refine b32Decode_eq_nil (fun c' hc' hi => ?_) (List.length_filter_le _ [c])
    rw [List.mem_singleton.mp hc'] at hi
    exact hi.2 hc

end Sys2Proof
end

section
/-! PROOFS. 41_hmac_sha1.md R113, R114, R120, R121: words and bytes as big-endian numbers, rotations, and the padding. -/

namespace Sys2Proof.Machine

/-! ### Rotations (R121) -/

theorem rotl_eq_rotateLeft {n : Nat} (hn : n < 32) (x : Word32) : rotl n x = x.rotateLeft n := by
  rw [rotl, BitVec.rotateLeft_def, Nat.mod_eq_of_lt hn]

theorem getLsbD_rotl {n i : Nat} (hn : n < 32) (hi : i < 32) (x : Word32) :
    (rotl n x).getLsbD ((i + n) % 32) = x.getLsbD i := by
  rw [rotl_eq_rotateLeft hn, BitVec.getLsbD_rotateLeft_of_le hn]
  by_cases hwrap : i + n < 32
  · have high : ¬i + n < n := by omega
    simp [Nat.mod_eq_of_lt hwrap, hwrap, high]
  · have hpos : (i + n) % 32 = i + n - 32 := by omega
    have hback : 32 - n + (i + n - 32) = i := by omega
    have low : i + n - 32 < n := by omega
    simp [hpos, hback, low]

/-! ### Words and bytes as numbers (20_memory.md R53) -/

theorem bigEndian_append (bytes more : List Byte) :
    bigEndian (bytes ++ more) = bigEndian bytes * 256 ^ more.length + bigEndian more := by
  induction more using List.reverseRecOn with
  | nil => simp [bigEndian]
  | append_singleton more b ih =>
    rw [← List.append_assoc, bigEndian_concat, ih, bigEndian_concat, List.length_append, List.length_singleton]
    ring

theorem bigEndian_be32 (x : Word32) : bigEndian (be32 x) = x.toNat := by
  simp only [be32, bigEndian, List.foldl, BitVec.extractLsb'_toNat, Nat.shiftRight_eq_div_pow]
  omega

theorem bigEndian_be64 (x : Word64) : bigEndian (be64 x) = x.toNat := by
  simp only [be64, bigEndian, List.foldl, BitVec.extractLsb'_toNat, Nat.shiftRight_eq_div_pow]
  omega

theorem toNat_append_byte {n : Nat} (x : BitVec n) (b : Byte) : (x ++ b).toNat = 256 * x.toNat + b.toNat := by
  rw [BitVec.toNat_append, ← Nat.shiftLeft_add_eq_or_of_lt b.isLt, Nat.shiftLeft_eq, Nat.mul_comm]

/-- The four bytes stand side by side (R114). -/
theorem word32OfBytes_eq_append (b0 b1 b2 b3 : Byte) : word32OfBytes b0 b1 b2 b3 = b0 ++ b1 ++ b2 ++ b3 := by
  ext i hi
  grind [word32OfBytes]

theorem toNat_word32OfBytes (b0 b1 b2 b3 : Byte) :
    (word32OfBytes b0 b1 b2 b3).toNat = bigEndian [b0, b1, b2, b3] := by
  simp [word32OfBytes_eq_append, toNat_append_byte, bigEndian]

/-! ### The padding (R113) -/

@[simp] theorem be64_length (x : Word64) : (be64 x).length = 8 := rfl

/-- `padZeros` is the least number that leaves 8 bytes to the end of a block. -/
theorem padZeros_least (len : Nat) :
    (len + 1 + padZeros len) % 64 = 56 ∧ ∀ z < padZeros len, (len + 1 + z) % 64 ≠ 56 := by
  rw [padZeros]
  exact ⟨by omega, fun z hz => by omega⟩

theorem pad_length (m : List Byte) : (pad m).length = 64 * ((m.length + 8) / 64 + 1) := by
  simp only [pad, List.length_append, List.length_singleton, List.length_replicate, be64_length, padZeros]
  omega

end Sys2Proof.Machine
end

section
/-! PROOFS. 41_hmac_sha1.md R114, R116: the schedule's words, and that the rules leave no choice of them. -/

namespace Sys2Proof

open Sys2Proof.Machine

/-! ### The first 16 words (R114) -/

@[simp] theorem blockWords_length (blk : List Byte) : (blockWords blk).length = 16 := by
  rw [blockWords, List.length_map, List.length_range]

theorem wordAt_blockWords (blk : List Byte) {t : Nat} (ht : t < 16) :
    wordAt (blockWords blk) t =
      word32OfBytes (byteAt blk (4 * t)) (byteAt blk (4 * t + 1)) (byteAt blk (4 * t + 2)) (byteAt blk (4 * t + 3)) := by
  simp [wordAt, blockWords, List.getD_eq_getElem?_getD, ht]

theorem take_drop_eq_map_byteAt {bytes : List Byte} {i n : Nat} (h : i + n ≤ bytes.length) :
    (bytes.drop i).take n = (List.range' i n).map (byteAt bytes) := by
  refine List.ext_getElem (by simp; omega) fun j _ hj => ?_
  rw [List.length_map, List.length_range'] at hj
  have hij : i + j < bytes.length := by omega
  simp [byteAt, hij]

theorem toNat_wordAt_blockWords {blk : List Byte} (hblk : blk.length = 64) {t : Nat} (ht : t < 16) :
    (wordAt (blockWords blk) t).toNat = bigEndian ((blk.drop (4 * t)).take 4) := by
  rw [wordAt_blockWords blk ht, toNat_word32OfBytes, take_drop_eq_map_byteAt (by omega)]
  rfl

/-! ### The recurrence (R116) -/

/-- `schedule` after the first `n` of its steps. -/
def extendWords (w : List Word32) (n : Nat) : List Word32 := (List.range' 16 n).foldl (fun w t => w ++ [nextWord w t]) w

theorem schedule_eq (w : List Word32) : schedule w = extendWords w 64 := rfl

theorem extendWords_succ (w : List Word32) (n : Nat) :
    extendWords w (n + 1) = extendWords w n ++ [nextWord (extendWords w n) (16 + n)] := by
  rw [extendWords, List.range'_concat, List.foldl_concat, Nat.one_mul, ← extendWords]

@[simp] theorem extendWords_length (w : List Word32) (n : Nat) : (extendWords w n).length = w.length + n := by
  induction n with
  | zero => rfl
  | succ n ih => rw [extendWords_succ, List.length_append, ih, List.length_singleton, Nat.add_assoc]

theorem wordAt_append_left {w : List Word32} {t : Nat} (ht : t < w.length) (more : List Word32) :
    wordAt (w ++ more) t = wordAt w t := List.getD_append _ _ _ _ ht

theorem wordAt_concat_length (w : List Word32) (x : Word32) : wordAt (w ++ [x]) w.length = x := by
  simp [wordAt]

theorem nextWord_append_left {w : List Word32} {t : Nat} (hlo : 16 ≤ t) (ht : t ≤ w.length) (more : List Word32) :
    nextWord (w ++ more) t = nextWord w t := by
  have keep (k : Nat) (hk : 0 < k) (hkt : k ≤ 16) : wordAt (w ++ more) (t - k) = wordAt w (t - k) :=
    wordAt_append_left (by omega) more
  simp only [nextWord, keep 3, keep 8, keep 14, keep 16, Nat.reduceLT, Nat.reduceLeDiff, Nat.le_refl]

theorem wordAt_extendWords_of_lt {w : List Word32} {t : Nat} (ht : t < w.length) (n : Nat) :
    wordAt (extendWords w n) t = wordAt w t := by
  induction n with
  | zero => rfl
  | succ n ih => rw [extendWords_succ, wordAt_append_left (by rw [extendWords_length]; omega), ih]

theorem wordAt_extendWords_of_le {w : List Word32} (hw : w.length = 16) {n t : Nat} (hlo : 16 ≤ t) (ht : t < 16 + n) :
    wordAt (extendWords w n) t = nextWord (extendWords w n) t := by
  induction n with
  | zero => omega
  | succ n ih =>
    have hlen : (extendWords w n).length = 16 + n := by rw [extendWords_length, hw]
    rw [extendWords_succ, nextWord_append_left hlo (by omega)]
    by_cases hlast : t = 16 + n
    · rw [hlast, ← hlen, wordAt_concat_length]
    · rw [wordAt_append_left (by omega), ih (by omega)]

/-! ### The schedule of a block -/

theorem schedule_blockWords_length (blk : List Byte) : (schedule (blockWords blk)).length = 80 := by
  rw [schedule_eq, extendWords_length, blockWords_length]

theorem wordAt_schedule_of_lt (blk : List Byte) {t : Nat} (ht : t < 16) :
    wordAt (schedule (blockWords blk)) t = wordAt (blockWords blk) t :=
  wordAt_extendWords_of_lt (by rwa [blockWords_length]) 64

theorem wordAt_schedule_of_le (blk : List Byte) {t : Nat} (hlo : 16 ≤ t) (ht : t < 80) :
    wordAt (schedule (blockWords blk)) t = nextWord (schedule (blockWords blk)) t :=
  wordAt_extendWords_of_le (blockWords_length blk) hlo ht

theorem nextWord_eq (w : List Word32) (t : Nat) :
    nextWord w t =
      (wordAt w (t - 3) ^^^ wordAt w (t - 8) ^^^ wordAt w (t - 14) ^^^ wordAt w (t - 16)).rotateLeft 1 :=
  rotl_eq_rotateLeft (by decide) _

theorem isSchedule_schedule {blk : List Byte} (hblk : blk.length = 64) :
    IsSchedule blk (wordAt (schedule (blockWords blk))) where
  ofBlock t ht := by rw [wordAt_schedule_of_lt blk ht, toNat_wordAt_blockWords hblk ht]
  recurrence t hlo ht := by rw [wordAt_schedule_of_le blk hlo ht, nextWord_eq]

/-- A block has one schedule: each word is given by the block or by earlier words. -/
theorem IsSchedule.unique {blk : List Byte} {w w' : Nat → Word32} (h : IsSchedule blk w) (h' : IsSchedule blk w')
    {t : Nat} (ht : t < 80) : w t = w' t := by
  induction t using Nat.strongRecOn with
  | ind t ih =>
    by_cases hlo : t < 16
    · exact BitVec.eq_of_toNat_eq ((h.ofBlock t hlo).trans (h'.ofBlock t hlo).symm)
    · have earlier (k : Nat) (hk : 0 < k) (hkt : k ≤ 16) : w (t - k) = w' (t - k) := ih _ (by omega) (by omega)
      rw [h.recurrence t (by omega) ht, h'.recurrence t (by omega) ht, earlier 3 (by decide) (by decide),
        earlier 8 (by decide) (by decide), earlier 14 (by decide) (by decide), earlier 16 (by decide) (by decide)]

end Sys2Proof
end

section
/-! PROOFS. 41_hmac_sha1.md R117 to R119: the 80 rounds and the chaining update of one block. -/

namespace Sys2Proof

open Sys2Proof.Machine

/-! ### The engine's rounds -/

/-- The engine's registers before round `t`, those before round 0 being `r`. -/
def runRounds (r : Sha1Regs) (t : Nat) : Sha1Regs := (List.range t).foldl sha1Round r

theorem runRounds_succ (r : Sha1Regs) (t : Nat) : runRounds r (t + 1) = sha1Round (runRounds r t) t := by
  rw [runRounds, List.range_succ, List.foldl_concat, ← runRounds]

theorem runRounds_frame (r : Sha1Regs) (t : Nat) :
    hashValue (runRounds r t) = hashValue r ∧ (runRounds r t).w = r.w := by
  induction t with
  | zero => exact ⟨rfl, rfl⟩
  | succ t ih => rw [runRounds_succ]; exact ih

@[simp] theorem runRounds_w (r : Sha1Regs) (t : Nat) : (runRounds r t).w = r.w := (runRounds_frame r t).2

/-- A to E, the values a round moves. -/
def working (r : Sha1Regs) : HashValue := ⟨r.a, r.b, r.c, r.d, r.e⟩

/-- H0 to H4 do not move in the rounds, and A to E are added to them after round 79 (R119). -/
theorem hashValue_compress (r : Sha1Regs) (blk : List Byte) :
    hashValue (compress r blk) =
      ⟨r.h0 + (runRounds (loadBlock r blk) 80).a, r.h1 + (runRounds (loadBlock r blk) 80).b,
        r.h2 + (runRounds (loadBlock r blk) 80).c, r.h3 + (runRounds (loadBlock r blk) 80).d,
        r.h4 + (runRounds (loadBlock r blk) 80).e⟩ := by
  have kept := (runRounds_frame (loadBlock r blk) 80).1
  simp only [hashValue, HashValue.mk.injEq, loadBlock] at kept
  obtain ⟨h0, h1, h2, h3, h4⟩ := kept
  rw [compress, ← runRounds]
  simp only [hashValue, chain, loadBlock, h0, h1, h2, h3, h4]

/-! ### The rounds as the rules give them -/

/-- The four ranges of R117 are one rule for all rounds. -/
theorem areRounds_iff (w a b c d e : Nat → Word32) :
    AreRounds w a b c d e ↔ ∀ t < 80,
      a (t + 1) = (a t).rotateLeft 5 + roundFn t (b t) (c t) (d t) + e t + roundConst t + w t ∧
        b (t + 1) = a t ∧ c (t + 1) = (b t).rotateLeft 30 ∧ d (t + 1) = c t ∧ e (t + 1) = d t := by
  simp only [roundFn, roundConst]
  constructor
  · refine fun h t ht => ⟨?_, h.shift t ht⟩
    split_ifs with h20 h40 h60
    · exact h.rounds0 t h20
    · exact h.rounds20 t (Nat.not_lt.mp h20) h40
    · exact h.rounds40 t (Nat.not_lt.mp h40) h60
    · exact h.rounds60 t (Nat.not_lt.mp h60) ht
  · intro h
    exact {
      shift := fun t ht => (h t ht).2
      rounds0 := fun t ht => by simpa only [ht, if_true] using (h t (by omega)).1
      rounds20 := fun t hlo ht => by
        have h20 : ¬t < 20 := by omega
        simpa only [h20, ht, if_true, if_false] using (h t (by omega)).1
      rounds40 := fun t hlo ht => by
        have h20 : ¬t < 20 := by omega
        have h40 : ¬t < 40 := by omega
        simpa only [h20, h40, ht, if_true, if_false] using (h t (by omega)).1
      rounds60 := fun t hlo ht => by
        have h20 : ¬t < 20 := by omega
        have h40 : ¬t < 40 := by omega
        have h60 : ¬t < 60 := by omega
        simpa only [h20, h40, h60, if_false] using (h t ht).1 }

theorem areRounds_runRounds (r : Sha1Regs) :
    AreRounds (wordAt r.w) (fun t => (runRounds r t).a) (fun t => (runRounds r t).b) (fun t => (runRounds r t).c)
      (fun t => (runRounds r t).d) (fun t => (runRounds r t).e) := by
  refine (areRounds_iff ..).mpr fun t _ => ?_
  simp only [runRounds_succ, sha1Round, runRounds_w, rotl_eq_rotateLeft, Nat.reduceLT, and_self]

/-- The rounds leave no choice of the values of A to E. -/
theorem AreRounds.eq_runRounds {w a b c d e : Nat → Word32} (h : AreRounds w a b c d e) {r : Sha1Regs}
    (hw : ∀ t < 80, w t = wordAt r.w t) (start : ⟨a 0, b 0, c 0, d 0, e 0⟩ = working r) {t : Nat} (ht : t ≤ 80) :
    ⟨a t, b t, c t, d t, e t⟩ = working (runRounds r t) := by
  induction t with
  | zero => exact start
  | succ t ih =>
    obtain ⟨ha, hb, hc, hd, he⟩ := (areRounds_iff ..).mp h t ht
    have before := ih (Nat.le_of_succ_le ht)
    simp only [working, HashValue.mk.injEq] at before
    obtain ⟨ea, eb, ec, ed, ee⟩ := before
    rw [ha, hb, hc, hd, he, ea, eb, ec, ed, ee, hw t ht, runRounds_succ]
    simp only [working, sha1Round, runRounds_w, rotl_eq_rotateLeft, Nat.reduceLT]

/-! ### One block -/

/-- A block takes the chaining value in the engine to the one the compression leaves, and to no other. -/
theorem blockTakes_iff (r : Sha1Regs) {blk : List Byte} (hblk : blk.length = 64) (h' : HashValue) :
    BlockTakes blk (hashValue r) h' ↔ h' = hashValue (compress r blk) := by
  have hsched := isSchedule_schedule hblk
  rw [hashValue_compress]
  constructor
  · rintro ⟨w, a, b, c, d, e, hw, hrounds, start, rfl⟩
    have last := hrounds.eq_runRounds (r := loadBlock r blk) (fun t ht => hw.unique hsched ht) start.symm (Nat.le_refl 80)
    simp only [working, HashValue.mk.injEq] at last
    obtain ⟨ea, eb, ec, ed, ee⟩ := last
    simp only [hashValue, ea, eb, ec, ed, ee]
  · rintro rfl
    exact ⟨_, _, _, _, _, _, hsched, areRounds_runRounds (loadBlock r blk), rfl, rfl⟩

end Sys2Proof
end

section
/-! PROOFS. 41_hmac_sha1.md R114, R115, R120: a message's blocks, and the digest as a number. -/

namespace Sys2Proof.Machine

/-- The blocks are taken in order: block `n` after those before it (R114). -/
theorem compressBlocks_succ (n : Nat) (r : Sha1Regs) (p : List Byte) :
    compressBlocks (n + 1) r p = compress (compressBlocks n r p) ((p.drop (64 * n)).take 64) := by
  induction n generalizing r p with
  | zero => rfl
  | succ n ih =>
    rw [compressBlocks, ih, ← compressBlocks, List.drop_drop, Config.blockBytes, Nat.mul_succ, Nat.add_comm]

@[simp] theorem be32_length (x : Word32) : (be32 x).length = 4 := rfl

theorem bigEndian_chainBytes (r : Sha1Regs) : bigEndian (chainBytes r) = (hashValue r).number := by
  simp only [chainBytes, bigEndian_append, bigEndian_be32, be32_length, HashValue.number, hashValue]
  ring

/-- The chaining values of a hash: the one before block `j` of the padded message. -/
def chainingValue (m : List Byte) (j : Nat) : HashValue :=
  hashValue (compressBlocks j (sha1Init { Sha1Regs.zero with len := BitVec.ofNat 64 m.length }) (pad m))

theorem chainingValue_zero (m : List Byte) :
    chainingValue m 0 = ⟨0x67452301, 0xEFCDAB89, 0x98BADCFE, 0x10325476, 0xC3D2E1F0⟩ := rfl

theorem blockTakes_chainingValue {m : List Byte} {j : Nat} (hj : j < (pad m).length / 64) :
    BlockTakes (((pad m).drop (64 * j)).take 64) (chainingValue m j) (chainingValue m (j + 1)) := by
  have hblk : (((pad m).drop (64 * j)).take 64).length = 64 := by
    rw [List.length_take, List.length_drop]
    omega
  rw [chainingValue, chainingValue, compressBlocks_succ]
  exact (blockTakes_iff _ hblk _).mpr rfl

theorem bigEndian_sha1 (m : List Byte) : bigEndian (sha1 m) = (chainingValue m ((pad m).length / 64)).number :=
  bigEndian_chainBytes (sha1Run .zero m)

/-! ### The pads of the HMAC unit (R122) -/

@[simp] theorem xorPad_length (k0 : List Byte) (p : Byte) : (xorPad k0 p).length = k0.length := List.length_map _

theorem getD_xorPad {k0 : List Byte} {i : Nat} (hi : i < k0.length) (p : Byte) :
    (xorPad k0 p).getD i 0 = k0.getD i 0 ^^^ p := by
  simp [xorPad, hi]

theorem k0Of_of_long {key : List Byte} (h : 64 < key.length) : k0Of key = sha1 key ++ List.replicate 44 0x00 := if_pos h

theorem k0Of_of_short {key : List Byte} (h : key.length ≤ 64) :
    k0Of key = key ++ List.replicate (64 - key.length) 0x00 := if_neg h.not_gt

@[simp] theorem k0Of_length (key : List Byte) : (k0Of key).length = 64 := by
  obtain h | h := Nat.lt_or_ge 64 key.length
  · rw [k0Of_of_long h, List.length_append, sha1_length, List.length_replicate]
  · rw [k0Of_of_short h, List.length_append, List.length_replicate, Nat.add_sub_cancel' h]

end Sys2Proof.Machine
end

section
/-! PROOFS. 41_hmac_sha1.md: the statements about SHA-1, the HMAC unit and HMAC. -/

namespace Sys2Proof

open Sys2Proof.Machine

/-- Settles O29: a bit that passes bit 31 comes in at the other end. -/
theorem rotationMovesEveryBit : Obligations.RotationMovesEveryBit :=
  fun x _ _ _ hn hi => getLsbD_rotl hn hi x

/-- Settles O27: `padZeros` is the least number, and 8L fits in 64 bits. -/
theorem paddingOfSha1Messages : Obligations.PaddingOfSha1Messages := by
  refine ⟨fun m hm => ?_, fun m _ => pad_length m⟩
  obtain ⟨hz, hleast⟩ := padZeros_least m.length
  have hfits : 8 * m.length < 2 ^ 64 := by omega
  refine ⟨padZeros m.length, hz, hleast, be64 (BitVec.ofNat 64 (8 * m.length)), be64_length _, ?_, rfl⟩
  rw [bigEndian_be64, BitVec.toNat_ofNat, Nat.mod_eq_of_lt hfits]

/-- Settles O28: the schedule keeps the block's words and satisfies its own recurrence. -/
theorem messageScheduleOfABlock : Obligations.MessageScheduleOfABlock := by
  refine fun blk hblk => ⟨schedule_blockWords_length blk, fun t ht => ?_, (isSchedule_schedule hblk).recurrence⟩
  rw [← wordAt, wordAt_schedule_of_lt blk ht, wordAt_blockWords blk ht, toNat_word32OfBytes]
  simp only [bigEndian, List.foldl, byteAt]
  ring

/-- Settles O49: the schedule and the rounds of a block are unique, and the engine's are such. -/
theorem compressionIsTheEightyRoundsAndTheUpdate : Obligations.CompressionIsTheEightyRoundsAndTheUpdate :=
  fun r _ hblk h' => blockTakes_iff r hblk h'

/-- Settles O50: the chaining values are those of the engine's run. -/
theorem sha1TakesTheBlocksOfThePaddedMessage : Obligations.Sha1TakesTheBlocksOfThePaddedMessage :=
  ⟨fun m _ => ⟨chainingValue m, chainingValue_zero m, fun _ hj => blockTakes_chainingValue hj, sha1_length m,
    bigEndian_sha1 m⟩, sha1Unit_eq⟩

/-- Settles O31: K0 is `k0Of`, and the pads are `xorPad` of it. -/
theorem hmacIsTheTwoHashesOfItsPads : Obligations.HmacIsTheTwoHashesOfItsPads := by
  intro h key message
  have hk0 := k0Of_length key
  refine ⟨k0Of key, xorPad (k0Of key) 0x36, xorPad (k0Of key) 0x5C, hk0, k0Of_of_long, k0Of_of_short,
    by rw [xorPad_length, hk0], fun i hi => getD_xorPad (hk0 ▸ hi) _, by rw [xorPad_length, hk0],
    fun i hi => getD_xorPad (hk0 ▸ hi) _, ?_, ?_⟩
  · rw [hmacUnit_two_hashes]
  · rw [hmacUnit_two_hashes]; rfl

/-- Settles O30: both are hashes. -/
theorem digestHasTwentyBytes : Obligations.DigestHasTwentyBytes := by
  intro h key message
  rw [hmacUnit_eq]
  exact ⟨hmacSha1_length key message, hmacSha1_length key message⟩

/-- Settles O32: HMAC is one update of the state, `exec_hmac`. -/
theorem hmacCommandWritesTheDigest : Obligations.HmacCommandWritesTheDigest :=
  fun s => ⟨exec_hmac s, hmacSha1_length s.key s.msg⟩

end Sys2Proof
end

section
/-! PROOFS. 42_totp.md R142 to R150: what GenTotp computes from the operands and the counter, on numbers. -/

namespace Sys2Proof.Machine

/-! ### The decimal string (R149) -/

theorem decimalString_succ (value width : Nat) :
    decimalString value (width + 1) = decimalString (value / 10) width ++ [BitVec.ofNat 8 (0x30 + value % 10)] := by
  simp only [decimalString, List.range_succ, List.map_append, List.map_cons, List.map_nil, Nat.add_sub_cancel, Nat.sub_self,
    Nat.pow_zero, Nat.div_one]
  congr 1
  refine List.map_congr_left fun i hi => ?_
  have hexp : width - i = width - 1 - i + 1 := by
    have hlt := List.mem_range.mp hi
    omega
  rw [hexp, Nat.pow_succ', Nat.div_div_eq_div_mul]

theorem decimalValue_concat (chars : List Byte) (c : Byte) :
    decimalValue (chars ++ [c]) = 10 * decimalValue chars + (c.toNat - 0x30) := List.foldl_concat ..

/-- Read back as a number, the string is the value's last `width` digits. -/
theorem decimalValue_decimalString (value width : Nat) : decimalValue (decimalString value width) = value % 10 ^ width := by
  induction width generalizing value with
  | zero => exact (Nat.mod_one value).symm
  | succ width ih =>
    have hdigit : (BitVec.ofNat 8 (0x30 + value % 10)).toNat - 0x30 = value % 10 := by
      rw [BitVec.toNat_ofNat]
      omega
    rw [decimalString_succ, decimalValue_concat, ih, hdigit, Nat.pow_succ', Nat.mod_mul, Nat.add_comm]

/-! ### The dynamic truncation (R146, R147) -/

theorem toNat_offsetNibble (b : Byte) : ((b &&& 0x0F).setWidth 4).toNat = b.toNat % 16 := by
  have hmask : (b &&& 0x0F).toNat = b.toNat % 16 := Nat.and_two_pow_sub_one_eq_mod b.toNat 4
  rw [BitVec.toNat_setWidth, hmask]
  exact Nat.mod_mod b.toNat 16

theorem toNat_and_0x7F (b : Byte) : (b &&& 0x7F).toNat = b.toNat % 128 := Nat.and_two_pow_sub_one_eq_mod b.toNat 7

/-- With the top bit masked off, no bit is lost in the 31 bits of BIN. -/
theorem toNat_truncateAt (tdig : List Byte) (off : Nat) :
    (truncateAt tdig off).toNat =
      (byteAt tdig off).toNat % 128 * 2 ^ 24 + (byteAt tdig (off + 1)).toNat * 2 ^ 16 +
        (byteAt tdig (off + 2)).toNat * 2 ^ 8 + (byteAt tdig (off + 3)).toNat := by
  simp only [truncateAt, BitVec.toNat_setWidth, toNat_word32OfBytes, bigEndian, List.foldl, toNat_and_0x7F]
  omega

theorem toNat_truncateAt_offset (tdig : List Byte) :
    (truncateAt tdig ((byteAt tdig 19 &&& 0x0F).setWidth 4).toNat).toNat = truncated tdig := by
  rw [toNat_offsetNibble, toNat_truncateAt]
  rfl

theorem truncated_lt (tdig : List Byte) : truncated tdig < 2 ^ 31 :=
  toNat_truncateAt_offset tdig ▸ BitVec.isLt _

/-! ### The Code of a counter (R143 to R149) -/

/-- TMSG of a TimeCounter (R144). -/
def counterMessage (counter : Nat) : List Byte := be64 (BitVec.ofNat 64 counter)

theorem bigEndian_counterMessage (now : Word64) (stepSecs : Word32) :
    bigEndian (counterMessage (now.toNat / stepSecs.toNat)) = now.toNat / stepSecs.toNat := by
  have hfits : now.toNat / stepSecs.toNat < 2 ^ 64 := Nat.lt_of_le_of_lt (Nat.div_le_self ..) now.isLt
  rw [counterMessage, bigEndian_be64, BitVec.toNat_ofNat, Nat.mod_eq_of_lt hfits]

/-- CVAL of a TimeCounter, as a number (R145 to R148). -/
def codeNumber (key : List Byte) (counter : Nat) (digits : Word32) : Nat :=
  truncated (hmacSha1 key (counterMessage counter)) % 10 ^ digits.toNat

theorem toNat_pipeline_cval (h : Hidden) (key : List Byte) (now : Word64) (stepSecs digits : Word32) :
    (pipeline h key now stepSecs digits).totp.cval.toNat = codeNumber key (now.toNat / stepSecs.toNat) digits := by
  have hfits : codeNumber key (now.toNat / stepSecs.toNat) digits < 2 ^ 31 :=
    Nat.lt_of_le_of_lt (Nat.mod_le ..) (truncated_lt _)
  simp only [pipeline, moduloStep, truncateStep, offsetStep, digestStep, messageStep, counterStep, hmacUnit_eq,
    toNat_truncateAt_offset, BitVec.toNat_ofNat]
  exact Nat.mod_eq_of_lt hfits

/-! ### GenTotp (R142, R150) -/

section
variable {reject : Bool} {key : List Byte} {stepSecs digits : Word32}

theorem checkOperands_of_step_zero (h : stepSecs = 0) : checkOperands reject key stepSecs digits = some .stepZero := if_pos h

theorem checkOperands_of_digits_range (h0 : stepSecs ≠ 0) (hrange : digits.toNat < 1 ∨ 10 < digits.toNat) :
    checkOperands reject key stepSecs digits = some .digitsRange := (if_neg h0).trans (if_pos hrange)

theorem checkOperands_of_empty_key (h0 : stepSecs ≠ 0) (hlow : 1 ≤ digits.toNat) (hhigh : digits.toNat ≤ 10)
    (hreject : reject = true) (hkey : key = []) : checkOperands reject key stepSecs digits = some .invalidSecret := by
  have hrange : ¬(digits.toNat < 1 ∨ 10 < digits.toNat) := by omega
  exact (if_neg h0).trans ((if_neg hrange).trans (if_pos ⟨hreject, List.length_eq_zero_iff.mpr hkey⟩))

theorem checkOperands_of_validOperands (h : validOperands reject key stepSecs digits) :
    checkOperands reject key stepSecs digits = none := by
  obtain ⟨h0, hlow, hhigh, hkey⟩ := h
  have hrange : ¬(digits.toNat < 1 ∨ 10 < digits.toNat) := by omega
  have haccept : ¬(reject = true ∧ key.length = 0) := by rwa [List.length_eq_zero_iff]
  exact (if_neg h0).trans ((if_neg hrange).trans (if_neg haccept))

end

/-- GenTotp reports the failing check, or gives the Code; of the time it sees the counter alone. -/
theorem genTotp_eq (reject : Bool) (key : List Byte) (now : Word64) (stepSecs digits : Word32) :
    genTotp reject key now stepSecs digits =
      (checkOperands reject key stepSecs digits).elim
        (.ok (decimalString (codeNumber key (now.toNat / stepSecs.toNat) digits) digits.toNat)) .error := by
  rw [genTotp, totpUnit]
  cases checkOperands reject key stepSecs digits with
  | some cause => rfl
  | none => rw [toNat_pipeline_cval]; rfl

theorem genTotp_of_check_fails {reject : Bool} {key : List Byte} {stepSecs digits : Word32} {cause : GenCause}
    (h : checkOperands reject key stepSecs digits = some cause) (now : Word64) :
    genTotp reject key now stepSecs digits = .error cause := by
  rw [genTotp_eq, h]
  rfl

theorem genTotp_of_validOperands {reject : Bool} {key : List Byte} {stepSecs digits : Word32}
    (h : validOperands reject key stepSecs digits) (now : Word64) :
    genTotp reject key now stepSecs digits =
      .ok (decimalString (codeNumber key (now.toNat / stepSecs.toNat) digits) digits.toNat) := by
  rw [genTotp_eq, checkOperands_of_validOperands h]
  rfl

/-- A Code has DIGITS characters, all of them digits (R151). -/
theorem genTotp_ok_digits {reject : Bool} {key : List Byte} {now : Word64} {stepSecs digits : Word32} {chars : List Byte}
    (h : genTotp reject key now stepSecs digits = .ok chars) : chars.length = digits.toNat ∧ ∀ c ∈ chars, isDigit c := by
  rw [genTotp_eq] at h
  cases hc : checkOperands reject key stepSecs digits with
  | some cause => simp [hc] at h
  | none =>
    rw [hc] at h
    obtain rfl := Except.ok.inj h
    exact ⟨decimalString_length .., fun c => decimalString_isDigit⟩

theorem genTotpt_ok_digits {reject : Bool} {text : List Byte} {now : Word64} {stepSecs digits : Word32} {chars : List Byte}
    (h : genTotpt reject text now stepSecs digits = .ok chars) : chars.length = digits.toNat ∧ ∀ c ∈ chars, isDigit c := by
  rw [genTotpt] at h
  cases hd : b32Decode text with
  | none => simp [hd] at h
  | some key =>
    rw [hd] at h
    exact genTotp_ok_digits h

end Sys2Proof.Machine
end

section
/-! PROOFS. 42_totp.md R140, R141, R151, R155: how TOTP and TOTPT end. -/

namespace Sys2Proof.Machine

/-- A failing check leaves the units as they were (R142, R150; 60_exceptions.md R205). -/
theorem exec_totp_of_check_fails {s : State} {cause : GenCause}
    (h : checkOperands s.params.emptyKeyReject s.key s.stepSecs s.digits = some cause) :
    exec .totp s = .next (answer { s with code := [], status := operationByte (.generation cause) }
      (operationByte (.generation cause)) 0) := by
  rw [exec_totp, genTotp_of_check_fails h, totpUnit_hidden, h]
  rfl

/-- Operands that pass give the Code, and the units that ran end at zero (R150). -/
theorem exec_totp_of_validOperands {s : State} {chars : List Byte}
    (h : validOperands s.params.emptyKeyReject s.key s.stepSecs s.digits)
    (hg : genTotp s.params.emptyKeyReject s.key s.now s.stepSecs s.digits = .ok chars) :
    exec .totp s = .next (answer { s with
      code := chars, status := 0x00
      hidden := { s.hidden with sha := .zero, hmac := .zero, totp := .zero } } 0x00 0) := by
  rw [exec_totp, hg, totpUnit_hidden, checkOperands_of_validOperands h]
  rfl

/-- `t` is how a command ends that found `s` and generated `g`: CODE, STATUS and the response are `g`'s (60_exceptions.md R202, R205). -/
structure Generated (g : Except GenCause (List Byte)) (s t : State) : Prop where
  code : t.code = generationCode g
  status : t.status = generationStatus g
  responses : t.responses = s.responses ++ [⟨generationStatus g, 0⟩]

theorem exec_totp_generated (s : State) :
    ∃ t, exec .totp s = .next t ∧
      Generated (genTotp s.params.emptyKeyReject s.key s.now s.stepSecs s.digits) s t :=
  ⟨_, exec_totp s, rfl, rfl, rfl⟩

theorem exec_totpt_generated (s : State) :
    ∃ t, exec .totpt s = .next t ∧
      Generated (genTotpt s.params.emptyKeyReject s.text s.now s.stepSecs s.digits) s t :=
  ⟨_, exec_totpt s, rfl, rfl, rfl⟩

/-- Both commands generate a Code of DIGITS digits, or an error (R151, R155). -/
theorem generated_of_exec {s t : State} {i : Instr} (hi : i = .totp ∨ i = .totpt) (ht : exec i s = .next t) :
    ∃ g, Generated g s t ∧ ∀ chars, g = .ok chars → chars.length = s.digits.toNat ∧ ∀ c ∈ chars, isDigit c := by
  obtain rfl | rfl := hi
  · obtain ⟨u, hu, hgen⟩ := exec_totp_generated s
    obtain rfl : u = t := Host.Outcome.next.inj (hu.symm.trans ht)
    exact ⟨_, hgen, fun _ => genTotp_ok_digits⟩
  · obtain ⟨u, hu, hgen⟩ := exec_totpt_generated s
    obtain rfl : u = t := Host.Outcome.next.inj (hu.symm.trans ht)
    exact ⟨_, hgen, fun _ => genTotpt_ok_digits⟩

/-- STATUS tells a Code from an error: ECODE of a GenerationError is 2 (10_state.md R24). -/
theorem generationStatus_error_ne_zero (cause : GenCause) : generationStatus (.error cause) ≠ 0x00 := by
  cases cause <;> decide

/-- An indexed read of an empty buffer is refused at every index (20_memory.md R52). -/
theorem readIndexed_of_empty {s : State} {b : Buffer} (h : readBuffer s b = []) (i : Word64) :
    readIndexed s b i = respond s 0x04 0 := by
  rw [readIndexed_eq, h]
  rfl

end Sys2Proof.Machine
end

section
/-! PROOFS. 42_totp.md: the statements about generation, TOTP and TOTPT. -/

namespace Sys2Proof

open Sys2Proof.Machine

/-- Settles O33: each of the four cases is one answer of `checkOperands`. -/
theorem totpWritesTheCodeOrTheFirstFailingCheck : Obligations.TotpWritesTheCodeOrTheFirstFailingCheck := by
  refine ⟨fun s h0 => ?stepZero, fun s h0 hrange => ?digitsRange, fun s h0 hlow hhigh hreject hkey => ?invalidSecret,
    fun s hv => ?code⟩
  case stepZero => exact exec_totp_of_check_fails (checkOperands_of_step_zero h0)
  case digitsRange => exact exec_totp_of_check_fails (checkOperands_of_digits_range h0 hrange)
  case invalidSecret => exact exec_totp_of_check_fails (checkOperands_of_empty_key h0 hlow hhigh hreject hkey)
  case code =>
    have hg := genTotp_of_validOperands hv s.now
    exact ⟨_, hg, (genTotp_ok_digits hg).1, exec_totp_of_validOperands hv hg⟩

/-- Settles O34: TOTPT is one update of the state, `exec_totpt`, and TOTP on the decoded key is the same one. -/
theorem totptDecodesAndThenActsAsTotp : Obligations.TotptDecodesAndThenActsAsTotp := by
  refine ⟨fun s hd => ?_, fun s bytes hd => ⟨_, exec_totpt s, ?_, ?_⟩⟩
  · rw [exec_totpt, genTotpt, totptHidden, hd]
    rfl
  · rw [conclude_key, hd, Option.getD_some]
  · rw [exec_totp, genTotpt, totptHidden, hd]
    rfl

/-- Settles O35: the message is `counterMessage`, the number `codeNumber`, and its decimal string reads back as the number. -/
theorem generatedCodeIsTheTruncatedHmacOfTheCounter : Obligations.GeneratedCodeIsTheTruncatedHmacOfTheCounter := by
  intro reject key now stepSecs digits hv
  have hg := genTotp_of_validOperands hv now
  obtain ⟨hlen, hdigits⟩ := genTotp_ok_digits hg
  refine ⟨counterMessage (now.toNat / stepSecs.toNat), _, be64_length _, bigEndian_counterMessage now stepSecs, hg, hlen,
    hdigits, ?_⟩
  rw [decimalValue_decimalString, codeNumber, Nat.mod_mod]

/-- Settles O36: with STATUS 0x00 the generation gave a Code. -/
theorem codeHasExactlyDigitsCharacters : Obligations.CodeHasExactlyDigitsCharacters := by
  intro s t i hi ht hok
  obtain ⟨g, hgen, hchars⟩ := generated_of_exec hi ht
  cases g with
  | ok chars =>
    rw [State.clen, hgen.code]
    exact hchars chars rfl
  | error cause => exact absurd (hgen.status.symm.trans hok) (generationStatus_error_ne_zero cause)

/-- Settles O37: what is generated is a function of the operands named. -/
theorem generationIsDeterministic : Obligations.GenerationIsDeterministic := by
  intro s s' hnow hstep hdig hreject
  refine ⟨fun hkey => ?_, fun htext => ?_⟩
  · obtain ⟨t, ht, hgen⟩ := exec_totp_generated s
    obtain ⟨t', ht', hgen'⟩ := exec_totp_generated s'
    rw [hnow, hstep, hdig, hreject, hkey] at hgen
    exact ⟨t, t', _, ht, ht', hgen.code.trans hgen'.code.symm, hgen.responses, hgen'.responses⟩
  · obtain ⟨t, ht, hgen⟩ := exec_totpt_generated s
    obtain ⟨t', ht', hgen'⟩ := exec_totpt_generated s'
    rw [hnow, hstep, hdig, hreject, htext] at hgen
    exact ⟨t, t', _, ht, ht', hgen.code.trans hgen'.code.symm, hgen.responses, hgen'.responses⟩

/-- Settles O38: of the time, `genTotp_eq` names the counter alone. -/
theorem sameCounterGivesTheSameCode : Obligations.SameCounterGivesTheSameCode := by
  intro reject key now now' stepSecs digits hcounter
  rw [genTotp_eq, genTotp_eq, hcounter]

/-- Settles O39: with another STATUS the generation gave an error, and an empty CODE has no index. -/
theorem failedGenerationLeavesNoCode : Obligations.FailedGenerationLeavesNoCode := by
  intro s t i hi ht herr
  obtain ⟨g, hgen, -⟩ := generated_of_exec hi ht
  cases g with
  | ok chars => exact absurd hgen.status herr
  | error cause => exact ⟨hgen.code, fun k => congrArg _ (readIndexed_of_empty (b := .code) hgen.code k)⟩

end Sys2Proof
end

section
/-! PROOFS. 43_host_commands.md: what each shared operation of the host commands answers in each of its cases. -/

namespace Sys2Proof.Machine

theorem respondOk_eq_answer (s : State) (v : Word64) : respondOk s v = answer s 0x00 v := by
  rw [respondOk_eq, okByte_eq]
  rfl

theorem emptyBuffer_eq_answer (s : State) (b : Buffer) : emptyBuffer s b = answer (writeBuffer s b []) 0x00 0 :=
  respondOk_eq_answer _ 0

theorem readLength_of_empty {s : State} {b : Buffer} (h : readBuffer s b = []) : readLength s b = answer s 0x00 0 := by
  rw [readLength, h]
  exact respondOk_eq_answer s 0

section
variable {s : State} {b : Buffer}

theorem pushByte_of_full (h : (readBuffer s b).length = capacity s.params b) (v : Byte) :
    pushByte s b v = answer s 0x05 0 := by
  obtain ⟨-, e⟩ | ⟨hne, -⟩ := pushByte_spec s b v
  · exact e
  · exact absurd h hne

theorem pushByte_of_not_full (h : (readBuffer s b).length ≠ capacity s.params b) (v : Byte) :
    pushByte s b v = answer (writeBuffer s b (readBuffer s b ++ [v])) 0x00 0 := by
  obtain ⟨heq, -⟩ | ⟨-, e⟩ := pushByte_spec s b v
  · exact absurd heq h
  · exact e

theorem readIndexed_of_lt {i : Word64} (h : i.toNat < (readBuffer s b).length) :
    readIndexed s b i = answer s 0x00 ((readBuffer s b)[i.toNat].setWidth 64) := by
  obtain ⟨hle, -⟩ | ⟨_, e⟩ := readIndexed_spec s b i
  · exact absurd h (Nat.not_lt_of_le hle)
  · exact e

theorem readIndexed_of_le {i : Word64} (h : (readBuffer s b).length ≤ i.toNat) :
    readIndexed s b i = answer s 0x04 0 := by
  obtain ⟨-, e⟩ | ⟨hlt, -⟩ := readIndexed_spec s b i
  · exact e
  · exact absurd hlt (Nat.not_lt_of_le h)

end

end Sys2Proof.Machine
end

section
/-! PROOFS. 43_host_commands.md R170 to R181, R183, R185, R187: the statements about the host commands. -/

namespace Sys2Proof

open Sys2Proof.Machine

theorem argByte_eq_ofNat (arg : Word64) : argByte arg = BitVec.ofNat 8 arg.toNat := by
  rw [argByte_eq_setWidth, BitVec.ofNat_toNat]

theorem argWord_eq_ofNat (arg : Word64) : argWord arg = BitVec.ofNat 32 arg.toNat := by
  rw [argWord_eq_setWidth, BitVec.ofNat_toNat]

/-- Settles O11: NOP is the response alone. -/
theorem nopOnlyResponds : Obligations.NopOnlyResponds :=
  ⟨by decide, fun s => congrArg Host.Outcome.next (respondOk_eq_answer s 0)⟩

/-- Settles O12: CLR is the reset of the block and a response, and the reads find empty buffers and STATUS 0x00. -/
theorem clrReturnsToResetState : Obligations.ClrReturnsToResetState := by
  intro s
  have hreset : AtReset (answer (resetBlock s) 0x00 0) := (atReset_resetBlock s).after_respond 0x00 0
  refine ⟨_, congrArg Host.Outcome.next (respondOk_eq_answer _ 0), hreset, rfl, rfl, rfl, ?rdklen, ?rddlen, ?rdclen, ?rdst⟩
  case rdklen => exact congrArg Host.Outcome.next (readLength_of_empty (b := .key) hreset.key.1)
  case rddlen => exact congrArg Host.Outcome.next (readLength_of_empty (b := .digest) hreset.digest.1)
  case rdclen => exact congrArg Host.Outcome.next (readLength_of_empty (b := .code) hreset.code.1)
  case rdst =>
    rw [exec, execRdst, hreset.status]
    exact congrArg Host.Outcome.next (respondOk_eq_answer _ 0)

/-- Settles O13: RDST is the response alone. -/
theorem rdstReturnsStatus : Obligations.RdstReturnsStatus :=
  fun s => congrArg Host.Outcome.next (respondOk_eq_answer s (byteValue s.status))

/-- Settles O14: each clear is one `emptyBuffer`, and the empty text decodes to no bytes. -/
theorem clearCommandsEmptyTheirBuffer : Obligations.ClearCommandsEmptyTheirBuffer := by
  intro s
  have hdecode : b32Decode [] = some [] := rfl
  refine ⟨?clrt, ?clrk, ?clrm, ⟨_, exec_b32dec _, ?key, ?status⟩, ?rdklen, ⟨_, exec_hmac _, conclude_digest _ _⟩⟩
  case clrt => exact congrArg Host.Outcome.next (emptyBuffer_eq_answer s .text)
  case clrk => exact congrArg Host.Outcome.next (emptyBuffer_eq_answer s .key)
  case clrm => exact congrArg Host.Outcome.next (emptyBuffer_eq_answer s .msg)
  case rdklen => exact congrArg Host.Outcome.next (readLength_of_empty (b := .key) rfl)
  case key => rw [conclude_key, hdecode, Option.getD_some]
  case status => rw [conclude_status, hdecode, Option.elim_some]

/-- Settles O15: each push is one `pushByte`, of the byte the decoder takes from ARG. -/
theorem pushCommandsAppendOrOverflow : Obligations.PushCommandsAppendOrOverflow := by
  refine ⟨fun s v => ⟨fun h => ?textFull, fun h => ?text, fun h => ?keyFull, fun h => ?key, fun h => ?msgFull,
    fun h => ?msg⟩, fun arg => ?decoded⟩
  case textFull => exact congrArg Host.Outcome.next (pushByte_of_full (b := .text) h v)
  case text => exact congrArg Host.Outcome.next (pushByte_of_not_full (b := .text) h v)
  case keyFull => exact congrArg Host.Outcome.next (pushByte_of_full (b := .key) h v)
  case key => exact congrArg Host.Outcome.next (pushByte_of_not_full (b := .key) h v)
  case msgFull => exact congrArg Host.Outcome.next (pushByte_of_full (b := .msg) h v)
  case msg => exact congrArg Host.Outcome.next (pushByte_of_not_full (b := .msg) h v)
  case decoded =>
    simp only [decode_commandWord, ← argByte_eq_ofNat]
    exact ⟨rfl, rfl, rfl⟩

/-- Settles O16: each set is a response to one update, of the bits the decoder takes from ARG. -/
theorem setCommandsWriteTheirRegister : Obligations.SetCommandsWriteTheirRegister := by
  refine ⟨fun s v => ?now, fun s v => ?step, fun s v => ?digits, fun arg => ?decoded⟩
  case now => exact congrArg Host.Outcome.next (respondOk_eq_answer { s with now := v } 0)
  case step => exact congrArg Host.Outcome.next (respondOk_eq_answer { s with stepSecs := v } 0)
  case digits => exact congrArg Host.Outcome.next (respondOk_eq_answer { s with digits := v } 0)
  case decoded =>
    simp only [decode_commandWord, ← argWord_eq_ofNat]
    exact ⟨rfl, rfl, rfl⟩

/-- Settles O19: each read is one `readIndexed` with the whole ARG. -/
theorem readByteCommandsReturnTheByteOrBadIndex : Obligations.ReadByteCommandsReturnTheByteOrBadIndex := by
  refine fun s i => ⟨fun h => ?key, fun h => ?keyBad, fun h => ?digest, fun h => ?digestBad, fun h => ?code,
    fun h => ?codeBad⟩
  case key => exact congrArg Host.Outcome.next (readIndexed_of_lt (b := .key) h)
  case keyBad => exact congrArg Host.Outcome.next (readIndexed_of_le (b := .key) h)
  case digest => exact congrArg Host.Outcome.next (readIndexed_of_lt (b := .digest) h)
  case digestBad => exact congrArg Host.Outcome.next (readIndexed_of_le (b := .digest) h)
  case code => exact congrArg Host.Outcome.next (readIndexed_of_lt (b := .code) h)
  case codeBad => exact congrArg Host.Outcome.next (readIndexed_of_le (b := .code) h)

end Sys2Proof
end

section
/-! PROOFS. 60_exceptions.md R200 to R203: a compute command ends by writing STATUS, never with a protocol error, and a command that ends
with a protocol error has only answered. -/

namespace Sys2Proof

open Sys2Proof.Machine

/-! ### The bytes of the protocol errors (R200) -/

/-- The RSTAT bytes of IllegalCommand, BadIndex and Overflow. -/
abbrev IsProtocolByte (b : Byte) : Prop := b = 0x03 ∨ b = 0x04 ∨ b = 0x05

/-- ECODE of a GenerationError is 2 (10_state.md R24). -/
theorem not_isProtocolByte_generationStatus (g : Except GenCause (List Byte)) : ¬IsProtocolByte (generationStatus g) := by
  cases g with
  | ok chars => exact show ¬IsProtocolByte 0x00 by decide
  | error cause => cases cause <;> decide

/-! ### STATUS (R202) -/

/-- Every compute command ends in `conclude`, and with no protocol error. -/
theorem exec_of_isCompute {i : Instr} (hi : i.isCompute = true) (s : State) :
    ∃ u st, exec i s = .next (conclude u st) ∧ u.responses = s.responses ∧ ¬IsProtocolByte st := by
  cases i with
  | b32dec =>
    refine ⟨_, _, exec_b32dec s, rfl, ?_⟩
    cases b32Decode s.text with
    | none => exact show ¬IsProtocolByte 0x01 by decide
    | some bytes => exact show ¬IsProtocolByte 0x00 by decide
  | hmac => exact ⟨_, _, exec_hmac s, rfl, by decide⟩
  | totp => exact ⟨_, _, exec_totp s, rfl, not_isProtocolByte_generationStatus _⟩
  | totpt => exact ⟨_, _, exec_totpt s, rfl, not_isProtocolByte_generationStatus _⟩
  | _ => cases hi

theorem status_notMem_mayWrite {i : Instr} (hhost : i.isCompute = false) (hclr : i ≠ .clr) : .status ∉ mayWrite i := by
  cases i with
  | clr => exact absurd rfl hclr
  | b32dec | hmac | totp | totpt => cases hhost
  | _ => simp [mayWrite]

/-- Settles O40: a compute command concludes, the row of a host command other than CLR does not mark STATUS, and CLR resets it. -/
theorem onlyComputeCommandsAndClrWriteStatus : Obligations.OnlyComputeCommandsAndClrWriteStatus := by
  intro i s t ht
  refine ⟨fun hcompute => ?compute, fun hhost hne => ?host, fun hi => ?clr⟩
  case compute =>
    obtain ⟨u, st, hu, hresp, -⟩ := exec_of_isCompute hcompute s
    obtain rfl : t = conclude u st := Host.Outcome.next.inj (ht.symm.trans hu)
    exact ⟨0, by rw [conclude_responses, conclude_status, hresp]⟩
  case host =>
    obtain ⟨hkept, -⟩ := writesOnly_of_exec ht
    exact (hkept .status (status_notMem_mayWrite hhost hne)).symm
  case clr =>
    obtain rfl := hi
    obtain rfl : respondOk (resetBlock s) 0 = t := Host.Outcome.next.inj ht
    exact resetBlock_status s

/-! ### Protocol errors (R203) -/

/-- If `t` has one response more than `s` and it is a protocol error, then `t` is `s` with that response. -/
def RefusalOnlyAnswers (s t : State) : Prop :=
  ∀ r : Response, t.responses = s.responses ++ [r] → IsProtocolByte r.rstat → t = answer s r.rstat 0

theorem refusalOnlyAnswers_respond (s : State) (st : Byte) : RefusalOnlyAnswers s (respond s st 0) := by
  intro r hr _
  obtain rfl : ⟨st, 0⟩ = r := List.singleton_inj.mp (List.append_cancel_left hr)
  rfl

theorem refusalOnlyAnswers_of_not_protocol {s t : State} {st : Byte} {v : Word64} (hst : ¬IsProtocolByte st)
    (ht : t.responses = s.responses ++ [⟨st, v⟩]) : RefusalOnlyAnswers s t := by
  intro r hr hrefused
  obtain rfl : ⟨st, v⟩ = r := List.singleton_inj.mp (List.append_cancel_left (ht.symm.trans hr))
  exact absurd hrefused hst

theorem refusalOnlyAnswers_of_success {s t : State} {v : Word64} (ht : t.responses = s.responses ++ [⟨0x00, v⟩]) :
    RefusalOnlyAnswers s t :=
  refusalOnlyAnswers_of_not_protocol (by decide) ht

theorem refusalOnlyAnswers_pushByte (s : State) (b : Buffer) (v : Byte) : RefusalOnlyAnswers s (pushByte s b v) := by
  obtain ⟨-, e⟩ | ⟨-, e⟩ := pushByte_spec s b v <;> rw [e]
  · exact refusalOnlyAnswers_respond s 0x05
  · exact refusalOnlyAnswers_of_success (by cases b <;> rfl)

theorem refusalOnlyAnswers_readIndexed (s : State) (b : Buffer) (index : Word64) :
    RefusalOnlyAnswers s (readIndexed s b index) := by
  obtain ⟨-, e⟩ | ⟨_, e⟩ := readIndexed_spec s b index <;> rw [e]
  · exact refusalOnlyAnswers_respond s 0x04
  · exact refusalOnlyAnswers_of_success rfl

theorem exec_refusalOnlyAnswers_of_isCompute {i : Instr} (hi : i.isCompute = true) (s : State) :
    ∃ t, exec i s = .next t ∧ RefusalOnlyAnswers s t := by
  obtain ⟨u, st, hu, hresp, hst⟩ := exec_of_isCompute hi s
  exact ⟨_, hu, refusalOnlyAnswers_of_not_protocol hst (by rw [conclude_responses, hresp])⟩

/-- Every command runs to a next state; of the host commands only a push and an indexed read can be refused. -/
theorem exec_refusalOnlyAnswers (i : Instr) (s : State) : ∃ t, exec i s = .next t ∧ RefusalOnlyAnswers s t := by
  cases i with
  | nop | clr | rdst | clrt | clrk | clrm | setnow | setstep | setdig | rdklen | rddlen | rdclen =>
    exact ⟨_, rfl, refusalOnlyAnswers_of_success rfl⟩
  | pusht c => exact ⟨_, rfl, refusalOnlyAnswers_pushByte s .text c⟩
  | pushk b => exact ⟨_, rfl, refusalOnlyAnswers_pushByte s .key b⟩
  | pushm b => exact ⟨_, rfl, refusalOnlyAnswers_pushByte s .msg b⟩
  | rdk index => exact ⟨_, rfl, refusalOnlyAnswers_readIndexed s .key index⟩
  | rdd index => exact ⟨_, rfl, refusalOnlyAnswers_readIndexed s .digest index⟩
  | rdc index => exact ⟨_, rfl, refusalOnlyAnswers_readIndexed s .code index⟩
  | b32dec | hmac | totp | totpt => exact exec_refusalOnlyAnswers_of_isCompute rfl s

/-- Taking a command word, whether it decodes or not (30_encoding.md R74, R75). -/
theorem step_refusalOnlyAnswers {s : State} {w : Word72} {rest : List PortEvent} (hin : s.inputs = .command w :: rest) :
    ∃ t, step s = .next t ∧ RefusalOnlyAnswers { s with inputs := rest } t := by
  cases hw : decode w with
  | some i =>
    rw [step_of_command hin hw]
    exact exec_refusalOnlyAnswers i _
  | none => exact ⟨_, step_of_illegal hin hw, refusalOnlyAnswers_respond _ _⟩

/-- Settles O41: the one outcome of the step is the state of `step_refusalOnlyAnswers`. -/
theorem refusedCommandsChangeNothing : Obligations.RefusedCommandsChangeNothing := by
  intro s t w rest r hin ht hr hrefused
  obtain ⟨t', ht', honly⟩ := step_refusalOnlyAnswers hin
  obtain rfl : t = t' := Host.Outcome.next.inj (ht.symm.trans ht')
  exact honly r hr hrefused

end Sys2Proof
end

section
/-! PROOFS. Runs: a run goes on from the state of its first step; nothing presented leaves the state; a reset gives R35's values. -/

namespace Sys2Proof

open Sys2Proof.Machine

theorem run_succ_of_step {s t : State} (h : step s = .next t) (n : Nat) : core.run (n + 1) s = core.run n t := by
  have hcore : core.step s = .next t := h
  simp only [Host.Core.run, hcore]

/-- A run of any length is a chain of the steps of `LegalState.step_next`. -/
theorem LegalState.safeRun (n : Nat) : ∀ {s : State}, LegalState s → SafeRun n s := by
  induction n with
  | zero => exact fun h => ⟨_, rfl, h⟩
  | succ n ih =>
    intro s h
    obtain ⟨t, hst, ht⟩ := h.step_next
    rw [SafeRun, run_succ_of_step hst]
    exact ih ht

/-- Settles O48: a legal state is all that the next step needs and all that it leaves. -/
theorem everyRunFromALegalStateIsSafe : Obligations.EveryRunFromALegalStateIsSafe :=
  fun n _ h => h.safeRun n

/-- Settles O7: there is no event to take. -/
theorem blockIsIdleWhenNothingIsPresented : Obligations.BlockIsIdleWhenNothingIsPresented :=
  fun _ => step_of_no_event

/-- Settles O8: the step is the reset of the block, which has R35's values and keeps the port and the parameters. -/
theorem resetAbandonsTheCommandInFlight : Obligations.ResetAbandonsTheCommandInFlight := by
  intro s running rest hin
  exact ⟨_, step_of_reset hin, atReset_resetBlock _, rfl, rfl, rfl⟩

end Sys2Proof
end

section
/-! PROOFS. 20_memory.md R59; 70_reset_and_hazards.md R233: a list of commands presented is executed one by one, since what is still
presented does not reach a command. -/

namespace Sys2Proof

open Sys2Proof.Machine

theorem agreeOn_symm {c : Column} {s t : State} (h : agreeOn c s t) : agreeOn c t s := by
  cases c <;> exact Eq.symm h

/-- The port is no column of R27. -/
theorem agreeOn_with_port (c : Column) (s : State) (later : List PortEvent) (rs : List Response) :
    agreeOn c { s with inputs := later, responses := rs } s := by
  cases c <;> rfl

/-- No row of R27 marks the port: a command does the same whatever is presented after it. -/
theorem exec_with_inputs {i : Instr} {s t : State} (ht : exec i s = .next t) (later : List PortEvent) :
    exec i { s with inputs := later } = .next { t with inputs := later } := by
  have hfound (c : Column) : agreeOn c s { s with inputs := later } :=
    agreeOn_symm (agreeOn_with_port c s later s.responses)
  obtain ⟨t₁, t', ht₁, ht', r, hr, hr', hwritten⟩ :=
    exec_answeredAlike i (s := s) (s' := { s with inputs := later }) rfl fun c _ => hfound c
  obtain rfl : t = t₁ := Host.Outcome.next.inj (ht.symm.trans ht₁)
  obtain ⟨hkept, hparams, hseq, -⟩ := writesOnly_of_exec ht
  obtain ⟨hkept', hparams', hseq', hin'⟩ := writesOnly_of_exec ht'
  have hcols (c : Column) : agreeOn c t t' :=
    if hc : c ∈ mayWrite i then hwritten c hc
    else agreeOn_trans (agreeOn_symm (hkept c hc)) (agreeOn_trans (hfound c) (hkept' c hc))
  have hw : WritesOnly [] { t with inputs := later, responses := s.responses } t' :=
    ⟨fun c _ => agreeOn_trans (agreeOn_with_port c t later s.responses) (hcols c), hparams'.trans hparams.symm,
      hseq'.trans hseq.symm, hin'⟩
  have hh : t'.hidden = t.hidden := by
    rw [hidden_of_exec ht', hidden_of_exec ht]
    exact (hiddenAfter_of_agreeOn rfl (fun c _ => hfound c) s.hidden).symm
  rw [ht', eq_answer_of_writesOnly_nil hw hh hr', answer, ← hr]

/-- A command at the head of the list presented is the next step, and the others stay presented. -/
theorem run_presenting_cons {i : Instr} {s t : State} (ht : exec i s = .next t) (n : Nat) (cmds : List Instr) :
    core.run (n + 1) (presenting s (i :: cmds)) = core.run n (presenting t cmds) := by
  have hstep : step (presenting s (i :: cmds)) = exec i (presenting s cmds) := step_of_command rfl (decode_encode i)
  exact run_succ_of_step (hstep.trans (exec_with_inputs ht _)) n

/-- One response per command, and no command left. -/
theorem exists_run_presenting (cmds : List Instr) :
    ∀ s : State, ∃ t, core.run cmds.length (presenting s cmds) = .next t ∧ t.inputs = [] ∧
      ∃ rs, rs.length = cmds.length ∧ t.responses = s.responses ++ rs := by
  induction cmds with
  | nil => exact fun s => ⟨_, rfl, rfl, [], rfl, (List.append_nil _).symm⟩
  | cons i cmds ih =>
    intro s
    obtain ⟨u, hu, r, hr, -⟩ := exec_answersOnce i s
    obtain ⟨t, ht, hin, rs, hlen, hrs⟩ := ih u
    refine ⟨t, (run_presenting_cons hu _ _).trans ht, hin, r :: rs, congrArg Nat.succ hlen, ?_⟩
    rw [hrs, hr, List.append_assoc, List.singleton_append]

/-- A run of a list of commands goes on with the commands presented after them. -/
theorem run_presenting_append (cmds more : List Instr) {t u : State}
    (hu : core.run more.length (presenting t more) = .next u) :
    ∀ s : State, core.run cmds.length (presenting s cmds) = .next t →
      core.run (cmds ++ more).length (presenting s (cmds ++ more)) = .next u := by
  induction cmds with
  | nil =>
    intro s ht
    obtain rfl : presenting s [] = t := Host.Outcome.next.inj ht
    exact hu
  | cons i cmds ih =>
    intro s ht
    obtain ⟨v, hv, -⟩ := exec_answersOnce i s
    exact (run_presenting_cons hv _ _).trans (ih v ((run_presenting_cons hv _ _).symm.trans ht))

/-- Settles O9: each command is one step, and the rest of the list is presented to the state it leaves. -/
theorem commandsRunInTheOrderPresented : Obligations.CommandsRunInTheOrderPresented :=
  ⟨fun s cmds => exists_run_presenting cmds s, fun s cmds more _ _ ht hu => run_presenting_append cmds more hu s ht⟩

end Sys2Proof
end

section
/-! PROOFS. 30_encoding.md R77: the pseudo-instructions, each run from the lemma of the operation its commands share. -/

namespace Sys2Proof

open Sys2Proof.Machine

/-- `s` with a list of commands answered and nothing presented. -/
def answered (s : State) (rs : List Response) : State := { s with inputs := [], responses := s.responses ++ rs }

theorem presenting_nil (s : State) : presenting s [] = answered s [] := by
  rw [answered, List.append_nil]
  rfl

theorem answered_answer (s : State) (st : Byte) (v : Word64) (rs : List Response) :
    answered (answer s st v) rs = answered s (⟨st, v⟩ :: rs) := by
  simp only [answered, answer, List.append_assoc, List.singleton_append]

/-! ### Loading: a clear, then one push a byte -/

theorem writeBuffer_writeBuffer (s : State) (b : Buffer) (bytes bytes' : List Byte) :
    writeBuffer (writeBuffer s b bytes) b bytes' = writeBuffer s b bytes' := by
  cases b <;> rfl

theorem writeBuffer_answer (s : State) (b : Buffer) (bytes : List Byte) (st : Byte) (v : Word64) :
    writeBuffer (answer s st v) b bytes = answer (writeBuffer s b bytes) st v := by
  cases b <;> rfl

theorem writeBuffer_params (s : State) (b : Buffer) (bytes : List Byte) : (writeBuffer s b bytes).params = s.params := by
  cases b <;> rfl

/-- A push on a buffer with room, by what the buffer holds. -/
theorem pushByte_writeBuffer {s : State} {b : Buffer} {bytes : List Byte} (h : bytes.length < capacity s.params b) (v : Byte) :
    pushByte (writeBuffer s b bytes) b v = writeBuffer (answer s 0x00 0) b (bytes ++ [v]) := by
  have hread : readBuffer (writeBuffer s b bytes) b = bytes := by rw [readBuffer_writeBuffer, if_pos rfl]
  have hroom : (readBuffer (writeBuffer s b bytes) b).length ≠ capacity (writeBuffer s b bytes).params b := by
    rw [hread, writeBuffer_params]
    exact h.ne
  rw [pushByte_of_not_full hroom, hread, writeBuffer_writeBuffer, writeBuffer_answer]

section
variable {b : Buffer} {clear : Instr} {push : Byte → Instr} (hpush : ∀ v s, exec (push v) s = .next (pushByte s b v))
include hpush

/-- Pushes that fit append their bytes, in order (20_memory.md R52). -/
theorem run_presenting_pushes (bytes : List Byte) :
    ∀ (s : State) (held : List Byte), held.length + bytes.length ≤ capacity s.params b →
      core.run bytes.length (presenting (writeBuffer s b held) (bytes.map push)) =
        .next (answered (writeBuffer s b (held ++ bytes)) (List.replicate bytes.length ⟨0x00, 0⟩)) := by
  induction bytes with
  | nil =>
    intro s held _
    rw [List.append_nil]
    exact congrArg _ (presenting_nil _)
  | cons v bytes ih =>
    intro s held hfit
    have hlen : held.length + (bytes.length + 1) ≤ capacity s.params b := hfit
    have hv : exec (push v) (writeBuffer s b held) = .next (writeBuffer (answer s 0x00 0) b (held ++ [v])) :=
      (hpush v _).trans (congrArg _ (pushByte_writeBuffer (by omega) v))
    have hrest : (held ++ [v]).length + bytes.length ≤ capacity s.params b := by
      rw [List.length_append, List.length_singleton]
      omega
    refine (run_presenting_cons hv _ _).trans ((ih (answer s 0x00 0) _ hrest).trans ?_)
    rw [writeBuffer_answer, answered_answer, List.append_assoc, List.singleton_append]
    rfl

/-- A clear and the pushes of a sequence that fits leave exactly that sequence (30_encoding.md R77). -/
theorem run_presenting_load (hclear : ∀ s, exec clear s = .next (emptyBuffer s b)) (s : State) {bytes : List Byte}
    (hfit : bytes.length ≤ capacity s.params b) :
    core.run (bytes.length + 1) (presenting s (clear :: bytes.map push)) =
      .next (answered (writeBuffer s b bytes) (List.replicate (bytes.length + 1) ⟨0x00, 0⟩)) := by
  have hc : exec clear s = .next (writeBuffer (answer s 0x00 0) b []) := by
    rw [hclear, emptyBuffer_eq_answer, writeBuffer_answer]
  refine (run_presenting_cons hc _ _).trans ((run_presenting_pushes hpush bytes _ [] ?_).trans ?_)
  · rw [List.length_nil, Nat.zero_add]
    exact hfit
  · rw [writeBuffer_answer, answered_answer, List.nil_append]
    rfl

end

/-- Settles O17: each load is one clear and one push a byte of its buffer. -/
theorem loadPseudoInstructionsFillTheBuffer : Obligations.LoadPseudoInstructionsFillTheBuffer :=
  ⟨fun s _ => run_presenting_load (b := .text) (fun _ _ => rfl) (fun _ => rfl) s,
    fun s _ => run_presenting_load (b := .key) (fun _ _ => rfl) (fun _ => rfl) s,
    fun s _ => run_presenting_load (b := .msg) (fun _ _ => rfl) (fun _ => rfl) s⟩

/-! ### Reading: the length, then one indexed read a byte -/

theorem readLength_eq_answer (s : State) (b : Buffer) :
    readLength s b = answer s 0x00 (BitVec.ofNat 64 (readBuffer s b).length) :=
  respondOk_eq_answer _ _

/-- Settles O18: each is one `readLength`. -/
theorem readLengthCommandsReturnTheLength : Obligations.ReadLengthCommandsReturnTheLength :=
  fun s => ⟨congrArg Host.Outcome.next (readLength_eq_answer s .key),
    congrArg Host.Outcome.next (readLength_eq_answer s .digest),
    congrArg Host.Outcome.next (readLength_eq_answer s .code)⟩

/-- The response to a read of a byte. -/
def byteResponse (v : Byte) : Response := ⟨0x00, v.setWidth 64⟩

/-- The bytes at all the indices of a buffer are the buffer. -/
theorem map_byteAt_range {α : Type} (f : Byte → α) (bytes : List Byte) :
    ((List.range bytes.length).map fun i => f (byteAt bytes i)) = bytes.map f := by
  have hall := take_drop_eq_map_byteAt (bytes := bytes) (i := 0) (n := bytes.length) (by omega)
  rw [List.drop_zero, List.take_length, ← List.range_eq_range'] at hall
  rw [← Function.comp_def f, ← List.map_map, ← hall]

section
variable {b : Buffer} {len : Instr} {read : Word64 → Instr} (hread : ∀ i s, exec (read i) s = .next (readIndexed s b i))
include hread

/-- Reads at indices below the length return the bytes there: no read changes the buffer. -/
theorem run_presenting_reads {held : List Byte} (hsmall : held.length < 2 ^ 64) (indices : List Nat) :
    ∀ s : State, readBuffer s b = held → (∀ i ∈ indices, i < held.length) →
      core.run indices.length (presenting s (indices.map fun i => read (BitVec.ofNat 64 i))) =
        .next (answered s (indices.map fun i => byteResponse (byteAt held i))) := by
  induction indices with
  | nil => exact fun s _ _ => congrArg _ (presenting_nil s)
  | cons i indices ih =>
    intro s hheld hlt
    obtain ⟨hi, hrest⟩ := List.forall_mem_cons.mp hlt
    have hindex : (BitVec.ofNat 64 i).toNat = i := Nat.mod_eq_of_lt (hi.trans hsmall)
    have hv : exec (read (BitVec.ofNat 64 i)) s = .next (answer s 0x00 ((byteAt held i).setWidth 64)) := by
      subst hheld
      rw [hread, readIndexed_of_lt (hindex.symm ▸ hi)]
      simp [byteAt, hindex, hi]
    refine (run_presenting_cons hv _ _).trans ((ih _ ((readBuffer_respond s _ _ b).trans hheld) hrest).trans ?_)
    exact congrArg _ (answered_answer s _ _ _)

/-- A read of the length and reads of all the indices below it return the length and the whole buffer (30_encoding.md R77). -/
theorem run_presenting_readAll (hlen : ∀ s, exec len s = .next (readLength s b)) (s : State)
    (hsmall : (readBuffer s b).length < 2 ^ 64) :
    core.run ((readBuffer s b).length + 1)
        (presenting s (len :: (List.range (readBuffer s b).length).map fun i => read (BitVec.ofNat 64 i))) =
      .next (answered s (⟨0x00, BitVec.ofNat 64 (readBuffer s b).length⟩ :: (readBuffer s b).map byteResponse)) := by
  have hl := (hlen s).trans (congrArg _ (readLength_eq_answer s b))
  have hreads := run_presenting_reads hread hsmall (List.range (readBuffer s b).length)
    (answer s 0x00 (BitVec.ofNat 64 (readBuffer s b).length)) (readBuffer_respond s _ _ b) fun _ => List.mem_range.mp
  rw [List.length_range, map_byteAt_range, answered_answer] at hreads
  exact (run_presenting_cons hl _ _).trans hreads

end

/-- Settles O20: each is one read of its buffer's length and one read an index. -/
theorem readPseudoInstructionsReturnTheBuffer : Obligations.ReadPseudoInstructionsReturnTheBuffer :=
  fun s hkey hdigest hcode =>
    ⟨run_presenting_readAll (b := .key) (fun _ _ => rfl) (fun _ => rfl) s hkey,
      run_presenting_readAll (b := .digest) (fun _ _ => rfl) (fun _ => rfl) s hdigest,
      run_presenting_readAll (b := .code) (fun _ _ => rfl) (fun _ => rfl) s hcode⟩

end Sys2Proof
end
